-- ==== Sys2Proof/Word.lean ====
section
/-! DEFINITION. Word.lean: the widths the manual uses for bits, and their plainest arithmetic. -/
namespace Sys2Proof

/-- One byte (R7). -/
abbrev Byte := BitVec 8

/-- A scalar register, an address held in a register, a 64-bit control register. -/
abbrev Word := BitVec 64

/-- A vector register: 1024 bits (R133). -/
abbrev VWord := BitVec 1024

/-- A flag register: 128 bits (R132). -/
abbrev FWord := BitVec 128

/-- An instruction: 96 bits (R83). -/
abbrev IWord := BitVec 96

/-- A word given as a natural number, modulo 2^64. -/
abbrev word (n : Nat) : Word := BitVec.ofNat 64 n

/-- All ones, the value of f0 (R94). -/
abbrev onesF : FWord := BitVec.allOnes 128

end Sys2Proof
end

