-- ==== Sys2Proof/Syntax.lean ====
section
/-! DEFINITION. Syntax.lean: the instructions of the opcode map (R100) and the events of the device, one constructor per
row of the opcode table. Operands are those the encodings of each chapter give. -/
namespace Sys2Proof

/-- Element types, in the order of their codes (R97). -/
inductive Ty where
  | s8 | n8 | s16 | n16 | s32 | n32 | s64 | n64 | f32 | f16 | bf16 | e4m3 | e5m2 | ss8 | s4 | e2m1
  deriving DecidableEq, Repr

/-- The predicate of an instruction: f(PF) exclusive-or PN (R95). -/
structure Pred where
  neg : Bool
  f : Fin 8
  deriving DecidableEq, Repr

/-- Registers of the files of R94. -/
abbrev WReg := Fin 64
abbrev VReg := Fin 32
abbrev FReg := Fin 8
abbrev YReg := Fin 8
abbrev TReg := Fin 8
abbrev MReg := Fin 2

/-- The B operand of a scalar form: a register, or IMM[39:0] (R96). -/
inductive OpB where
  | reg (b : WReg)
  | imm (v : BitVec 40)
  deriving DecidableEq, Repr

/-- The B operand of a vector form: a register, or a broadcast immediate (R191). -/
inductive OpVB where
  | reg (b : VReg)
  | imm (v : BitVec 40)
  deriving DecidableEq, Repr

/-- Rounding modes of the arithmetic reading of MOD (R98); SR names the register of random words. -/
inductive Rnd where
  | rne | rtz | rdn | rup | rna
  | sr (c : VReg)
  deriving DecidableEq, Repr

/-- Comparison codes (R151, R198). -/
inductive Cond where
  | eq | ne | lt | le | gt | ge | uo
  deriving DecidableEq, Repr

/-- Scopes (R99). -/
inductive Scope where
  | tile | gang | die | package | system
  deriving DecidableEq, Repr

/-- The order of a memory instruction: plain, or ordered at a scope (R98, R263, R307). -/
inductive Order where
  | plain
  | acq (s : Scope)
  | rel (s : Scope)
  | acqRel (s : Scope)
  deriving DecidableEq, Repr

/-- Operations of amo and amof (R309). -/
inductive AmoOp where
  | add | and | or | xor | min | max | swap | cas
  deriving DecidableEq, Repr

/-- Operations of red and of collectives (R307, R377). -/
inductive RedOp where
  | add | min | max | and | or | xor
  deriving DecidableEq, Repr

/-- The operand of red: a scalar register, or a vector register when VEC is set (R311). -/
inductive RedSrc where
  | w (c : WReg)
  | v (c : VReg)
  deriving DecidableEq, Repr

/-- Levels and operations of cmaint (R270). -/
inductive CmLevel where
  | l1 | dl2 | hl2 | mem
  deriving DecidableEq, Repr

inductive CmOp where
  | clean | inval | cinv
  deriving DecidableEq, Repr

/-- A host access (R288, R39, R357): a read or write of job memory, a write to the host's own memory that the device reads, a
read of a function's register, or a write to a launch or collective port; or the host sets which ranges of its addresses answer no
read (R363, log 3). -/
inductive HostAcc where
  | readJob (job va len : Nat)
  | writeJob (job va : Nat) (bytes : List Byte)
  | writeHost (addr : Nat) (bytes : List Byte)
  | readReg (fn win off : Nat)
  | port (job : Nat) (collective : Bool) (stream offset : Nat) (bytes : List Byte)
  | mapHost (holes : List (Nat × Nat))
  deriving DecidableEq, Repr

/-- Where an uncorrectable error lies (R330): a memory unit, a scratchpad unit, state of a task or of its tile's
registers that its gang consumes, a gang between retirement and commit, or state of no single gang; and errors that are
corrected, or retried by a checker, and only counted (R145, R146, R215, R238, R341), for which the table has no row. -/
inductive ErrSite where
  | memory (unit : Nat)
  | scratchpad (tile unit : Nat)
  | task (tile : Nat)
  | gang (job gang : Nat)
  | structural (quadrant : Nat)
  /-- a unit of a line held in the tile's L1 or constant cache, by its key (R260) -/
  | cached (tile unit : Nat)
  | correctedTile (tile : Nat)
  | correctedMemory (unit : Nat)
  | checkerRetry (tile : Nat)
  /-- a unit of 8 bytes of a tile's matrix state, at the offsets of R326; from 0xC008 on, the queue entry of its next operation (R239) -/
  | matrix (tile unit : Nat)
  deriving DecidableEq, Repr

/-- What matched commands must agree in: OP, ROP, TY, MOD as R377 codes them, COUNT (R378). -/
structure CollSig where
  op : Nat
  rop : Nat
  ty : Nat
  md : Nat
  count : Nat
  deriving DecidableEq, Repr

/-- A message of a collective (R378, R379). -/
inductive CollMsg where
  | subtree (rank : Nat) (vals : List Word)
  | result (vals : List Word)
  | ack (rank : Nat)
  | announce
  | failed
  deriving DecidableEq, Repr

/-- A message with what it says of its collective: the number k in the group and the sender's command fields (R378). -/
structure CollPost where
  k : Nat
  sig : CollSig
  msg : CollMsg
  deriving DecidableEq, Repr

/-- A flit, named by its sluice, direction, traffic class and sequence number (R368). -/
structure Flit where
  sluice : Nat
  dir : Nat
  cls : Nat
  seq : BitVec 32
  deriving DecidableEq, Repr

/-- Instructions and events, one constructor per row of the opcode table, in its order. -/
inductive Instr where
  -- 0x01 to 0x05
  | nop (p : Pred)
  | ifence (p : Pred)
  | br (p : Pred) (slot : Fin 5) (disp : BitVec 40)
  | call (p : Pred) (d : WReg) (slot : Fin 5) (disp : BitVec 40)
  | loop (p : Pred) (a : WReg) (slot : Fin 5) (disp : BitVec 40)
  | jr (p : Pred) (link : Option WReg) (a : WReg)
  | ret (p : Pred) (a : WReg)
  | trap (p : Pred) (code : BitVec 16)
  | eret (p : Pred)
  | uret (p : Pred)
  | done (p : Pred)
  | yield (p : Pred) (live : BitVec 10)
  | movc (p : Pred) (d : WReg) (creg : BitVec 12)
  | mtc (p : Pred) (a : WReg) (creg : BitVec 12)
  | wpsw (p : Pred) (d a : WReg)
  | prel (p : Pred) (n : BitVec 9)
  | rdid (p : Pred) (d : WReg) (sel : BitVec 4)
  | rdccy (p : Pred) (d : WReg)
  | rdterr (p : Pred) (d a : WReg) (mode : Bool)
  -- 0x10
  | iadd (p : Pred) (ty : Ty) (sat : Bool) (d a : WReg) (b : OpB)
  | isub (p : Pred) (ty : Ty) (sat : Bool) (d a : WReg) (b : OpB)
  | imul (p : Pred) (ty : Ty) (sat : Bool) (d a : WReg) (b : OpB)
  | imulh (p : Pred) (ty : Ty) (d a : WReg) (b : OpB)
  | imulhn (p : Pred) (ty : Ty) (d a : WReg) (b : OpB)
  | idiv (p : Pred) (ty : Ty) (sat : Bool) (d a : WReg) (b : OpB)
  | idivn (p : Pred) (ty : Ty) (d a : WReg) (b : OpB)
  | irem (p : Pred) (ty : Ty) (d a : WReg) (b : OpB)
  | iremn (p : Pred) (ty : Ty) (d a : WReg) (b : OpB)
  | imin (p : Pred) (ty : Ty) (d a : WReg) (b : OpB)
  | imax (p : Pred) (ty : Ty) (d a : WReg) (b : OpB)
  | iminn (p : Pred) (ty : Ty) (d a : WReg) (b : OpB)
  | imaxn (p : Pred) (ty : Ty) (d a : WReg) (b : OpB)
  | iabs (p : Pred) (ty : Ty) (sat : Bool) (d a : WReg)
  | ineg (p : Pred) (ty : Ty) (sat : Bool) (d a : WReg)
  -- 0x11
  | iand (p : Pred) (d a : WReg) (b : OpB)
  | ior (p : Pred) (d a : WReg) (b : OpB)
  | ixor (p : Pred) (d a : WReg) (b : OpB)
  | iandn (p : Pred) (d a : WReg) (b : OpB)
  | ishl (p : Pred) (d a : WReg) (b : OpB)
  | ishr (p : Pred) (d a : WReg) (b : OpB)
  | isar (p : Pred) (d a : WReg) (b : OpB)
  | irot (p : Pred) (d a : WReg) (b : OpB)
  | clz (p : Pred) (d a : WReg)
  | ctz (p : Pred) (d a : WReg)
  | popc (p : Pred) (d a : WReg)
  -- 0x12, 0x13, 0x14
  | icmp (p : Pred) (ty : Ty) (cond : Cond) (d : FReg) (a : WReg) (b : OpB)
  | isel (p : Pred) (d a : WReg) (b : OpB) (c : FReg)
  | ext (p : Pred) (d a : WReg) (pos : BitVec 6) (len : BitVec 7)
  | extn (p : Pred) (d a : WReg) (pos : BitVec 6) (len : BitVec 7)
  | ins (p : Pred) (d a : WReg) (pos : BitVec 6) (len : BitVec 7)
  | li (p : Pred) (d : WReg) (imm : Word)
  | lea (p : Pred) (pcrel : Bool) (sh : BitVec 3) (d a : WReg) (b : OpB)
  -- 0x20 to 0x27
  | ld (p : Pred) (ty : Ty) (o : Order) (d a : WReg) (b : OpB)
  | st (p : Pred) (ty : Ty) (o : Order) (a : WReg) (b : OpB) (c : WReg)
  | vld (p : Pred) (ty : Ty) (o : Order) (d : VReg) (a : WReg) (b : OpB)
  | vst (p : Pred) (ty : Ty) (o : Order) (a : WReg) (b : OpB) (c : VReg)
  | vlds (p : Pred) (ty : Ty) (d : VReg) (a : WReg) (b : OpB)
  | vsts (p : Pred) (ty : Ty) (a : WReg) (b : OpB) (c : VReg)
  | vldg (p : Pred) (ty : Ty) (d : VReg) (a : WReg) (b : VReg)
  | vstx (p : Pred) (ty : Ty) (a : WReg) (b c : VReg)
  | ldrc (p : Pred) (ty : Ty) (count : BitVec 4) (d a : WReg) (b : OpB)
  | ldc (p : Pred) (ty : Ty) (d a : WReg) (b : OpB)
  | sbind (p : Pred) (write : Bool) (d : VReg) (a b c : WReg)
  | sunbind (p : Pred) (d : VReg)
  | cmaint (p : Pred) (op : CmOp) (level : CmLevel) (a : WReg) (b : OpB)
  | icinv (p : Pred) (a : WReg) (b : OpB)
  | fence (p : Pred) (o : Order)
  -- 0x30 to 0x34
  | amo (p : Pred) (op : AmoOp) (ty : Ty) (o : Order) (a c : WReg)
  | amof (p : Pred) (op : AmoOp) (ty : Ty) (o : Order) (d a b c : WReg)
  | red (p : Pred) (op : RedOp) (ty : Ty) (m : Rnd) (a : WReg) (src : RedSrc)
  | arrive (p : Pred) (k : Fin 8)
  | wait (p : Pred) (k : Fin 8)
  | sstep (p : Pred) (k : Fin 8)
  | barrierGenerationComplete (job gang : Nat) (k : Fin 8)
  | tcommit (p : Pred) (wait : Bool)
  | trd (p : Pred) (d : WReg) (stream : Fin 16) (tail : Bool)
  | thead (p : Pred) (d : WReg) (wait : Bool)
  -- 0x38, 0x39
  | fork (p : Pred) (d a b : WReg) (join : Bool) (live : BitVec 10) (stage : BitVec 16)
  | join (p : Pred) (live : BitVec 10)
  | spawn (p : Pred) (d a b : WReg) (join : Bool) (live : BitVec 10) (stage : BitVec 16)
  | suspend (p : Pred) (a : WReg) (live : BitVec 10)
  | suspendWake (job addr : Nat)
  | launch (p : Pred) (graph : Bool) (a b c : WReg) (stream : Fin 16)
  | gdone (p : Pred)
  -- 0x40 to 0x49
  | vadd (p : Pred) (ty : Ty) (m : Rnd) (sat : Bool) (d a : VReg) (b : OpVB)
  | vsub (p : Pred) (ty : Ty) (m : Rnd) (sat : Bool) (d a : VReg) (b : OpVB)
  | vmul (p : Pred) (ty : Ty) (m : Rnd) (sat : Bool) (d a : VReg) (b : OpVB)
  | vmin (p : Pred) (ty : Ty) (d a : VReg) (b : OpVB)
  | vmax (p : Pred) (ty : Ty) (d a : VReg) (b : OpVB)
  | vabs (p : Pred) (ty : Ty) (sat : Bool) (d a : VReg)
  | vneg (p : Pred) (ty : Ty) (sat : Bool) (d a : VReg)
  | vfma (p : Pred) (ty : Ty) (m : Rnd) (sat : Bool) (d a : VReg) (b : OpVB)
  | vfms (p : Pred) (ty : Ty) (m : Rnd) (sat : Bool) (d a : VReg) (b : OpVB)
  | vfnma (p : Pred) (ty : Ty) (m : Rnd) (sat : Bool) (d a : VReg) (b : OpVB)
  | vand (p : Pred) (ty : Ty) (d a : VReg) (b : OpVB)
  | vor (p : Pred) (ty : Ty) (d a : VReg) (b : OpVB)
  | vxor (p : Pred) (ty : Ty) (d a : VReg) (b : OpVB)
  | vshl (p : Pred) (ty : Ty) (d a : VReg) (b : OpVB)
  | vshr (p : Pred) (ty : Ty) (d a : VReg) (b : OpVB)
  | vsar (p : Pred) (ty : Ty) (d a : VReg) (b : OpVB)
  | vcmp (p : Pred) (ty : Ty) (cond : Cond) (d : FReg) (a : VReg) (b : OpVB)
  | vsel (p : Pred) (ty : Ty) (d a : VReg) (b : OpVB) (c : FReg)
  | vcvt (p : Pred) (ty sty : Ty) (part : BitVec 3) (m : Rnd) (sat : Bool) (d a : VReg)
  | vquant (p : Pred) (ty sty : Ty) (part : BitVec 3) (m : Rnd) (sat : Bool) (d a : VReg) (b : WReg)
  | vdq (p : Pred) (ty sty : Ty) (part : BitVec 3) (m : Rnd) (sat : Bool) (d a : VReg) (b : WReg)
  | vredsum (p : Pred) (ty : Ty) (m : Rnd) (sat : Bool) (d : WReg) (a : VReg)
  | vredmax (p : Pred) (ty : Ty) (d : WReg) (a : VReg)
  | vredmin (p : Pred) (ty : Ty) (d : WReg) (a : VReg)
  | vamax (p : Pred) (ty : Ty) (d : WReg) (a : VReg)
  | vdot (p : Pred) (ty : Ty) (m : Rnd) (sat : Bool) (d : WReg) (a b : VReg)
  | vperm (p : Pred) (ty : Ty) (d a b : VReg)
  | vbcast (p : Pred) (ty : Ty) (d : VReg) (a : WReg)
  | vslide (p : Pred) (ty : Ty) (k : BitVec 9) (d a b : VReg)
  | vzip (p : Pred) (ty : Ty) (part : Bool) (d a b : VReg)
  | vunzip (p : Pred) (ty : Ty) (part : Bool) (d a b : VReg)
  | vins (p : Pred) (ty : Ty) (d : VReg) (a : WReg) (b : OpB)
  | vext (p : Pred) (ty : Ty) (d : WReg) (a : VReg) (b : OpB)
  | vrecip (p : Pred) (ty : Ty) (m : Rnd) (sat : Bool) (d a : VReg)
  | vrsqrt (p : Pred) (ty : Ty) (m : Rnd) (sat : Bool) (d a : VReg)
  | vexp2 (p : Pred) (ty : Ty) (m : Rnd) (sat : Bool) (d a : VReg)
  | vlog2 (p : Pred) (ty : Ty) (m : Rnd) (sat : Bool) (d a : VReg)
  | fand (p : Pred) (d a b : FReg)
  | for_ (p : Pred) (d a b : FReg)
  | fxor (p : Pred) (d a b : FReg)
  | fnot (p : Pred) (d a : FReg)
  | fpop (p : Pred) (ty : Ty) (d : WReg) (a : FReg)
  | ffirst (p : Pred) (ty : Ty) (d : WReg) (a : FReg)
  -- 0x60 to 0x63
  | ydraw (p : Pred) (d : YReg) (a : WReg)
  | yset (p : Pred) (d : YReg) (a : WReg)
  | ycopy (p : Pred) (d a : YReg)
  | yrd (p : Pred) (asF32 : Bool) (m : Rnd) (d : WReg) (a : YReg)
  | ycmp (p : Pred) (asF32 : Bool) (d : FReg) (a : YReg) (b : WReg)
  | ycmpq (p : Pred) (d : FReg) (a : YReg) (b c : WReg)
  | ycmpy (p : Pred) (d : FReg) (a b : YReg)
  | ycat (p : Pred) (d : WReg) (a : YReg) (b c : WReg)
  | yext (p : Pred) (d : YReg) (k : BitVec 3)
  | ydig (p : Pred) (d : VReg) (a : WReg)
  -- 0x68, 0x69
  | bgreq (p : Pred) (d a : WReg) (tag : BitVec 4)
  | bgtry (p : Pred) (d a : WReg) (tag : BitVec 4)
  | bargeAccept (tile : Nat)
  | bargeUnitWrite (req : Nat)
  | bgsleep (p : Pred) (noprom : Bool) (tag : BitVec 4)
  | promiseMissed (tile : Nat)
  | bgwm (p : Pred) (d : WReg) (recv : BitVec 10) (tag : BitVec 4)
  -- 0x70 to 0x78
  | mcfg (p : Pred) (ty : Ty) (d : TReg) (rows : BitVec 8) (cols : BitVec 10)
  | tld (p : Pred) (d : TReg) (a : WReg) (b : OpB)
  | tldt (p : Pred) (d : TReg) (a : WReg) (b : OpB)
  | tst (p : Pred) (d : TReg) (a : WReg) (b : OpB)
  | tzero (p : Pred) (d : TReg)
  | mmac (p : Pred) (m : Rnd) (sat : Bool) (row0 col0 : BitVec 7) (d : MReg) (a b : TReg)
  | mmacs (p : Pred) (m : Rnd) (sat : Bool) (row0 col0 : BitVec 7) (d : MReg) (a b : TReg)
  | mscale (p : Pred) (m : Rnd) (sat : Bool) (row0 col0 : BitVec 7) (kb : BitVec 6) (d a : MReg) (b c : TReg)
  | mrd (p : Pred) (d : VReg) (a : MReg) (row : BitVec 7) (part : BitVec 2)
  | mwr (p : Pred) (d : MReg) (a : VReg) (row : BitVec 7) (part : BitVec 2)
  | mclr (p : Pred) (d : MReg)
  | matrixOpComplete (tile : Nat)
  | mcmd (p : Pred) (a : WReg) (b : VReg)
  | mcmdArrival (tile : Nat)
  | mcap (p : Pred) (d a : WReg) (rights : BitVec 6)
  | mswap (p : Pred) (a b c : WReg) (len : BitVec 17)
  | mswapMatch (tile partner : Nat)
  | mwait (p : Pred) (mode : BitVec 2)
  -- events: ports, graphs, collectives
  | portLaunch (job stream : Nat)
  | portGraph (job stream : Nat)
  | graphInstantiate (job stream : Nat)
  | portOpen (job stream : Nat)
  | portClose (job stream : Nat)
  | closeComplete (job stream : Nat)
  | collectiveAllreduce (job stream : Nat)
  | collectiveReduce (job stream : Nat)
  | collectiveBroadcast (job stream : Nat)
  | collectiveStart (job stream : Nat)
  | collectiveCommit (job stream : Nat)
  -- events: scheduling
  | gangReady (job gang : Nat)
  | dispatchSelection (polder : Nat)
  | concurrentPlacement (job gang : Nat)
  | quantumClose (job gang : Nat)
  | parallelQuantumExpiry (tile : Nat)
  | restrictionTimeout (tile : Nat)
  | takeRecord (tile : Nat)
  | preempt (tile : Nat)
  | latchStallTimeout (tile : Nat)
  | preemptCopyOut (tile : Nat)
  -- events: territory
  | presUpdate
  | borderPhaseStart
  | wipeStart (tile : Nat)
  | cessionAbandon (tile : Nat)
  | wipeComplete (tile : Nat)
  | tileDead (tile : Nat)
  | deadTilePhaseEnd (tile : Nat)
  | splitRelease (job : Nat)
  -- events: errors, retirement, memory
  | uncorrectableError (site : ErrSite)
  | gangDrain (job gang : Nat)
  | dieHashedWriteArrival (die : Nat)
  | meteringFlush (job : Nat)
  | infieldTest (tile : Nat) (passes : Bool)
  | thermalLimit (degrees : Nat)
  | packageReset (disc : List Nat)
  | fqreplyRetry (fn num : Nat)
  | fqreplyDeliver (fn num : Nat)
  | fqheadWrite (fn : Nat) (v : Word)
  | invcmd (fn : Nat) (v : Word)
  | invalidationComplete (fn : Nat)
  | dkeyhiWrite (job : Nat) (v : Word)
  | rselWrite (sluice : Nat) (v : Word)
  | sluiceRetrainComplete (sluice : Nat) (failing : List (Nat × Nat))
  | sluiceWindowEnd (sluice : Nat)
  | flitCrcFail (x : Flit)
  | fabricHeartbeat
  | fabricTimeout (level addr : Nat)
  -- events: mailbox commands, trust, host
  | resync (fn : Nat)
  | polderSet (fn : Nat)
  | polderReset (fn : Nat)
  | powerLimit (fn : Nat)
  | jobCreate (fn : Nat)
  | jobDestroy (fn : Nat)
  | groupSet (fn : Nat)
  | codeDigest (fn : Nat)
  | formation (fn : Nat)
  | report (fn : Nat)
  | measure (fn : Nat)
  | measurePassStart (job gang : Nat)
  | spdm (fn : Nat)
  | extend (fn : Nat)
  | lifecycleQuery (fn : Nat)
  | lifecycleTransition (fn : Nat)
  | registerWrite (fn win off : Nat) (v : Word)
  | hostAccess (acc : HostAcc)
  | collectiveMessageArrival (group : Nat) (post : CollPost)
  | failedLockkeeper (quadrant : Nat)
  deriving DecidableEq, Repr

end Sys2Proof
end

