-- ==== Sys2Proof/WellFormed.lean ====
section
/-! DEFINITION. WellFormed.lean: the limits each entry of the manual sets on the operands of its encoding. A term outside
them has no encoding (R102). For an event: the numbers of tiles, streams, sluices and quadrants. -/
namespace Sys2Proof

/-- The code of a type (R97). -/
def Ty.code : Ty → Nat
  | .s8 => 0 | .n8 => 1 | .s16 => 2 | .n16 => 3 | .s32 => 4 | .n32 => 5 | .s64 => 6 | .n64 => 7
  | .f32 => 8 | .f16 => 9 | .bf16 => 10 | .e4m3 => 11 | .e5m2 => 12 | .ss8 => 13 | .s4 => 14 | .e2m1 => 15

/-- Width in bits of an element (R173, R174, R177). -/
def Ty.bits : Ty → Nat
  | .s8 | .n8 | .e4m3 | .e5m2 | .ss8 => 8
  | .s16 | .n16 | .f16 | .bf16 => 16
  | .s32 | .n32 | .f32 => 32
  | .s64 | .n64 => 64
  | .s4 | .e2m1 => 4

/-- The integer types of R147, codes 0 to 7. -/
def Ty.isInt : Ty → Bool
  | .s8 | .n8 | .s16 | .n16 | .s32 | .n32 | .s64 | .n64 => true
  | _ => false

/-- Types whose values are signed integers: S of R147, and S4. -/
def Ty.signed : Ty → Bool
  | .s8 | .s16 | .s32 | .s64 | .s4 => true
  | _ => false

/-- Integer types with S4. -/
def Ty.intVal (t : Ty) : Bool := t.isInt || t == .s4

/-- S types of R147 (even codes up to 6). -/
def Ty.isS (t : Ty) : Bool := t.isInt && t.signed
/-- N types of R147 (odd codes up to 7). -/
def Ty.isN (t : Ty) : Bool := t.isInt && !t.signed

/-- F32, F16 and BF16: codes 8 to 10. -/
def Ty.isFloat3 : Ty → Bool
  | .f32 | .f16 | .bf16 => true
  | _ => false

/-- Codes 0 to 10. -/
def Ty.upTo10 (t : Ty) : Bool := t.isInt || t.isFloat3
/-- Codes 0 to 12. -/
def Ty.upTo12 (t : Ty) : Bool := t.upTo10 || t == .e4m3 || t == .e5m2

/-- Elements of a vector register (R133). -/
def Ty.elems (t : Ty) : Nat := 1024 / t.bits

/-- SR needs a C other than 0, since C = 0 with SR is no instruction (R98 and the entries' edges). -/
def Rnd.ok : Rnd → Bool
  | .sr c => c != 0
  | _ => true

def Rnd.isSr : Rnd → Bool
  | .sr _ => true
  | _ => false

/-- MOD of an arithmetic entry: integer types take no rounding mode (R192, R201). -/
def Ty.modOk (t : Ty) (m : Rnd) : Bool := if t.intVal then m == .rne else m.ok

/-- PART limits of R199. -/
def partOk (ty sty : Ty) (part : BitVec 3) : Bool :=
  part.toNat < (if sty.bits ≤ ty.bits then ty.bits / sty.bits else sty.bits / ty.bits)

def Order.isPlainOrAcq : Order → Bool
  | .plain | .acq _ => true
  | _ => false

def Order.isPlainOrRel : Order → Bool
  | .plain | .rel _ => true
  | _ => false

/-- Limits of the bitfield forms (R152). -/
def bitfieldOk (pos : BitVec 6) (len : BitVec 7) : Bool :=
  1 ≤ len.toNat && len.toNat ≤ 64 && pos.toNat + len.toNat ≤ 64

/-- Types an operation of amo or amof accepts (R309). -/
def AmoOp.tyOk : AmoOp → Ty → Bool
  | .and, t | .or, t | .xor, t => t.isInt
  | _, t => t.upTo10

/-- Types and modes red accepts (R311). -/
def RedOp.ok : RedOp → Ty → Rnd → Bool
  | .add, t, m => t.upTo10 && (if t.isInt then m == .rne else !m.isSr)
  | .min, t, m | .max, t, m => t.upTo10 && m == .rne
  | _, t, m => t.isInt && m == .rne

/-- Row bytes of a tile register of COLS elements (R219). -/
def rowBytes (ty : Ty) (cols : Nat) : Nat := (cols * ty.bits + 7) / 8

/-- A configuration that configures a tile register (R219). -/
def cfgOk (ty : Ty) (rows cols : Nat) : Bool :=
  1 ≤ rows && rows ≤ 128 && 1 ≤ cols && rowBytes ty cols ≤ 256

/-- Immediate index of vins and vext (R203). -/
def idxOk (ty : Ty) : OpB → Bool
  | .reg _ => true
  | .imm v => 0 ≤ v.toInt && v.toInt < ty.elems

/-- The well-formed terms. -/
def Instr.wf : Instr → Bool
  | .nop _ | .ifence _ | .br _ _ _ | .call _ _ _ _ | .loop _ _ _ _ | .jr _ _ _ | .ret _ _ | .trap _ _
  | .eret _ | .uret _ | .done _ | .movc _ _ _ | .mtc _ _ _ | .wpsw _ _ _ | .rdccy _ _ | .rdterr _ _ _ _ => true
  | .yield _ live => live.toNat ≤ 688
  | .prel _ n => n.toNat ≤ 256
  | .rdid _ _ sel => sel.toNat ≤ 8
  | .iadd _ ty _ _ _ _ | .isub _ ty _ _ _ _ | .imul _ ty _ _ _ _ => ty.isInt
  | .imulh _ ty _ _ _ | .idiv _ ty _ _ _ _ | .irem _ ty _ _ _ | .imin _ ty _ _ _ | .imax _ ty _ _ _
  | .iabs _ ty _ _ _ | .ineg _ ty _ _ _ => ty.isS
  | .imulhn _ ty _ _ _ | .idivn _ ty _ _ _ | .iremn _ ty _ _ _ | .iminn _ ty _ _ _ | .imaxn _ ty _ _ _ => ty.isN
  | .iand _ _ _ _ | .ior _ _ _ _ | .ixor _ _ _ _ | .iandn _ _ _ _ | .ishl _ _ _ _ | .ishr _ _ _ _
  | .isar _ _ _ _ | .irot _ _ _ _ | .clz _ _ _ | .ctz _ _ _ | .popc _ _ _ => true
  | .icmp _ ty c _ _ _ => ty.isInt && c != .uo
  | .isel _ _ _ _ _ => true
  | .ext _ _ _ pos len | .extn _ _ _ pos len | .ins _ _ _ pos len => bitfieldOk pos len
  | .li _ _ _ => true
  | .lea _ pcrel _ _ a _ => !pcrel || a == 0
  | .ld _ ty o _ _ _ | .vld _ ty o _ _ _ => ty.isInt && o.isPlainOrAcq
  | .st _ ty o _ _ _ | .vst _ ty o _ _ _ => ty.isInt && o.isPlainOrRel
  | .vlds _ ty _ _ _ | .vsts _ ty _ _ _ | .vldg _ ty _ _ _ | .vstx _ ty _ _ _ | .ldc _ ty _ _ _ => ty.isInt
  | .ldrc _ ty count _ _ _ => ty.isInt && count != 0
  | .sbind _ _ _ _ _ _ | .sunbind _ _ | .cmaint _ _ _ _ _ | .icinv _ _ _ => true
  | .fence _ o => o != .plain
  | .amo _ op ty o _ _ => op.tyOk ty && op != .cas && o.isPlainOrRel
  | .amof _ op ty _ _ _ b _ => op.tyOk ty && (op == .cas || b == 0)
  | .red _ op ty m _ _ => op.ok ty m
  | .arrive _ _ | .wait _ _ | .sstep _ _ | .tcommit _ _ | .trd _ _ _ _ | .thead _ _ _ => true
  | .fork _ _ _ _ _ _ _ | .join _ _ | .spawn _ _ _ _ _ _ _ | .suspend _ _ _ | .launch _ _ _ _ _ _ | .gdone _ => true
  | .vadd _ ty m _ _ _ _ | .vsub _ ty m _ _ _ _ | .vmul _ ty m _ _ _ _ => ty.upTo10 && ty.modOk m
  | .vmin _ ty _ _ _ | .vmax _ ty _ _ _ => ty.upTo10
  | .vabs _ ty sat _ _ | .vneg _ ty sat _ _ => ty.isS || (ty.isFloat3 && !sat)
  | .vfma _ ty m _ _ _ _ | .vfms _ ty m _ _ _ _ | .vfnma _ ty m _ _ _ _ => ty.isFloat3 && m.ok
  | .vand _ ty _ _ _ | .vor _ ty _ _ _ | .vxor _ ty _ _ _ | .vshl _ ty _ _ _ | .vshr _ ty _ _ _
  | .vsar _ ty _ _ _ => ty.isInt
  | .vcmp _ ty c _ _ _ => ty.upTo12 && (c != .uo || !ty.isInt)
  | .vsel _ _ _ _ _ _ => true
  | .vcvt _ ty sty part m _ _ _ => partOk ty sty part && m.ok && !(m.isSr && ty == .ss8)
  | .vquant _ ty sty part m _ _ _ _ =>
    (ty == .s8 || ty == .e4m3 || ty == .e5m2 || ty == .ss8 || ty == .s4 || ty == .e2m1) && sty.isFloat3
      && partOk ty sty part && m.ok && !(m.isSr && ty == .ss8)
  | .vdq _ ty sty part m _ _ _ _ =>
    ty.isFloat3 && (sty == .s8 || sty == .n8 || sty == .e4m3 || sty == .e5m2 || sty == .ss8 || sty == .s4 || sty == .e2m1)
      && partOk ty sty part && m.ok
  | .vredsum _ ty m _ _ _ => ty != .ss8 && ty.modOk m
  | .vredmax _ ty _ _ | .vredmin _ ty _ _ => ty.upTo12
  | .vamax _ ty _ _ => ty.isS || (ty != .ss8 && !ty.isInt)
  | .vdot _ ty m _ _ _ _ => ty != .ss8 && ty != .s64 && ty != .n64 && ty.modOk m
  | .vperm _ ty _ _ _ | .vbcast _ ty _ _ | .vzip _ ty _ _ _ _ | .vunzip _ ty _ _ _ _ => ty.isInt
  | .vslide _ ty k _ _ _ => ty.isInt && k.toNat ≤ ty.elems
  | .vins _ ty _ _ b | .vext _ ty _ _ b => ty.isInt && idxOk ty b
  | .vrecip _ ty m _ _ _ | .vrsqrt _ ty m _ _ _ | .vexp2 _ ty m _ _ _ | .vlog2 _ ty m _ _ _ => ty.isFloat3 && m.ok
  | .fand _ _ _ _ | .for_ _ _ _ _ | .fxor _ _ _ _ | .fnot _ _ _ => true
  | .fpop _ ty _ _ | .ffirst _ ty _ _ => ty.isInt
  | .ydraw _ _ _ | .yset _ _ _ | .ycopy _ _ _ | .ycmp _ _ _ _ _ | .ycmpq _ _ _ _ _ | .ycmpy _ _ _ _
  | .ycat _ _ _ _ _ | .ydig _ _ _ => true
  | .yrd _ asF32 m _ _ => if asF32 then !m.isSr else m == .rne
  | .yext _ _ k => 1 ≤ k.toNat && k.toNat ≤ 4
  | .bgreq _ _ a _ | .bgtry _ _ a _ => a.val ≤ 60
  | .bgsleep _ _ _ | .bgwm _ _ _ _ => true
  | .mcfg _ ty _ rows cols => cfgOk ty rows.toNat cols.toNat
  | .tld _ _ _ _ | .tldt _ _ _ _ | .tst _ _ _ _ | .tzero _ _ => true
  | .mmac _ m _ _ _ _ _ _ | .mmacs _ m _ _ _ _ _ _ => m.ok
  | .mscale _ m _ _ _ _ _ _ _ _ => !m.isSr
  | .mrd _ _ _ _ _ | .mwr _ _ _ _ _ | .mclr _ _ | .mcmd _ _ _ | .mcap _ _ _ _ | .mswap _ _ _ _ _ => true
  | .mwait _ mode => mode.toNat ≤ 2
  -- events
  | .barrierGenerationComplete _ _ _ | .suspendWake _ _ => true
  | .bargeAccept t | .promiseMissed t | .matrixOpComplete t | .mcmdArrival t
  | .parallelQuantumExpiry t | .restrictionTimeout t | .takeRecord t | .preempt t | .latchStallTimeout t
  | .preemptCopyOut t | .wipeStart t | .cessionAbandon t | .wipeComplete t | .tileDead t | .deadTilePhaseEnd t
  | .infieldTest t _ => t < 576
  | .mswapMatch t u => t < 576 && u < 576
  | .bargeUnitWrite _ => true
  | .portLaunch _ s | .portGraph _ s | .graphInstantiate _ s | .portOpen _ s | .portClose _ s | .closeComplete _ s
  | .collectiveAllreduce _ s | .collectiveReduce _ s | .collectiveBroadcast _ s | .collectiveStart _ s
  | .collectiveCommit _ s => s < 16
  | .gangReady _ _ | .concurrentPlacement _ _ | .quantumClose _ _ | .gangDrain _ _ | .measurePassStart _ _ => true
  | .dispatchSelection q => q < 16
  | .presUpdate | .borderPhaseStart | .splitRelease _ | .uncorrectableError _ | .meteringFlush _ | .thermalLimit _
  | .fabricHeartbeat => true
  | .dieHashedWriteArrival d => d < 4
  | .packageReset disc => disc.length == 48 && disc.all (· ≤ 12)
  | .fqreplyRetry f _ | .fqreplyDeliver f _ | .fqheadWrite f _ | .invcmd f _ | .invalidationComplete f => f < 256
  | .dkeyhiWrite j _ => 1 ≤ j && j < 256
  | .rselWrite n _ | .sluiceRetrainComplete n _ | .sluiceWindowEnd n => n < 6
  | .flitCrcFail x => x.sluice < 6 && x.dir < 2 && x.cls < 4
  | .fabricTimeout l _ => 1 ≤ l && l ≤ 3
  | .resync f | .polderSet f | .polderReset f | .powerLimit f | .jobCreate f | .jobDestroy f | .groupSet f
  | .codeDigest f | .formation f | .report f | .measure f | .spdm f | .extend f | .lifecycleQuery f
  | .lifecycleTransition f => f < 256
  | .registerWrite f w _ _ => f < 256 && w < 3
  | .hostAccess _ | .collectiveMessageArrival _ _ => true
  | .failedLockkeeper q => q < 16

/-- Events have no encoding. -/
def Instr.isEvent : Instr → Bool
  | .barrierGenerationComplete _ _ _ | .suspendWake _ _ | .bargeAccept _ | .bargeUnitWrite _ | .promiseMissed _
  | .matrixOpComplete _ | .mcmdArrival _ | .mswapMatch _ _ | .portLaunch _ _ | .portGraph _ _ | .graphInstantiate _ _
  | .portOpen _ _ | .portClose _ _ | .closeComplete _ _ | .collectiveAllreduce _ _ | .collectiveReduce _ _
  | .collectiveBroadcast _ _ | .collectiveStart _ _ | .collectiveCommit _ _ | .gangReady _ _ | .dispatchSelection _
  | .concurrentPlacement _ _ | .quantumClose _ _ | .parallelQuantumExpiry _ | .restrictionTimeout _ | .takeRecord _
  | .preempt _ | .latchStallTimeout _ | .preemptCopyOut _ | .presUpdate | .borderPhaseStart | .wipeStart _
  | .cessionAbandon _ | .wipeComplete _ | .tileDead _ | .deadTilePhaseEnd _ | .splitRelease _ | .uncorrectableError _
  | .gangDrain _ _ | .dieHashedWriteArrival _ | .meteringFlush _ | .infieldTest _ _ | .thermalLimit _ | .packageReset _
  | .fqreplyRetry _ _ | .fqreplyDeliver _ _ | .fqheadWrite _ _ | .invcmd _ _ | .invalidationComplete _ | .dkeyhiWrite _ _
  | .rselWrite _ _ | .sluiceRetrainComplete _ _ | .sluiceWindowEnd _ | .flitCrcFail _ | .fabricHeartbeat
  | .fabricTimeout _ _ | .resync _ | .polderSet _ | .polderReset _ | .powerLimit _ | .jobCreate _ | .jobDestroy _
  | .groupSet _ | .codeDigest _ | .formation _ | .report _ | .measure _ | .measurePassStart _ _ | .spdm _ | .extend _
  | .lifecycleQuery _ | .lifecycleTransition _ | .registerWrite _ _ _ _ | .hostAccess _ | .collectiveMessageArrival _ _
  | .failedLockkeeper _ => true
  | _ => false

end Sys2Proof
end

