-- ==== Sys2Proof/Decode.lean ====
section
/-! DEFINITION. Decode.lean: the 96-bit formats R91 to R93, the decoder and the encoder. The three formats share one
layout: format W keeps IMM64 in the bits of B to IMM, format J keeps SLOT in SC's bits and DISP in IMM's.
A word is an instruction exactly when the fields it holds build a well-formed term whose encoding is that word again:
a reserved field that is not zero, a register number beyond its file, a code the entry does not accept, each makes the
re-encoding or the well-formedness test fail (R102). -/
namespace Sys2Proof

/-- The fields of format R (R91). -/
structure Raw where
  maj : BitVec 8 := 0
  min : BitVec 8 := 0
  pn : BitVec 1 := 0
  pf : BitVec 3 := 0
  d : BitVec 6 := 0
  a : BitVec 6 := 0
  b : BitVec 6 := 0
  c : BitVec 6 := 0
  ty : BitVec 4 := 0
  mod : BitVec 4 := 0
  sc : BitVec 3 := 0
  ib : BitVec 1 := 0
  imm : BitVec 40 := 0
  deriving DecidableEq, Repr

/-- The fields of a word (R91). -/
def Raw.unpack (w : IWord) : Raw where
  maj := w.extractLsb' 88 8
  min := w.extractLsb' 80 8
  pn := w.extractLsb' 79 1
  pf := w.extractLsb' 76 3
  d := w.extractLsb' 70 6
  a := w.extractLsb' 64 6
  b := w.extractLsb' 58 6
  c := w.extractLsb' 52 6
  ty := w.extractLsb' 48 4
  mod := w.extractLsb' 44 4
  sc := w.extractLsb' 41 3
  ib := w.extractLsb' 40 1
  imm := w.extractLsb' 0 40

/-- The word of the fields (R91). -/
def Raw.pack (r : Raw) : IWord :=
  r.maj ++ r.min ++ r.pn ++ r.pf ++ r.d ++ r.a ++ r.b ++ r.c ++ r.ty ++ r.mod ++ r.sc ++ r.ib ++ r.imm

/-! Codes of the shared fields. -/

/-- R97. -/
def Ty.ofCode (n : BitVec 4) : Ty :=
  match n.toNat with
  | 0 => .s8 | 1 => .n8 | 2 => .s16 | 3 => .n16 | 4 => .s32 | 5 => .n32 | 6 => .s64 | 7 => .n64
  | 8 => .f32 | 9 => .f16 | 10 => .bf16 | 11 => .e4m3 | 12 => .e5m2 | 13 => .ss8 | 14 => .s4 | _ => .e2m1

def Ty.enc (t : Ty) : BitVec 4 := BitVec.ofNat 4 t.code

/-- R99. -/
def Scope.enc : Scope → BitVec 3
  | .tile => 1 | .gang => 2 | .die => 3 | .package => 4 | .system => 5

def Scope.ofCode (n : BitVec 3) : Scope :=
  match n.toNat with
  | 1 => .tile | 2 => .gang | 3 => .die | 4 => .package | _ => .system

/-- MOD[1:0] and SC of an ordered memory instruction (R98, R99). -/
def Order.encMod : Order → BitVec 4
  | .plain => 0 | .acq _ => 1 | .rel _ => 2 | .acqRel _ => 3

def Order.encSc : Order → BitVec 3
  | .plain => 0
  | .acq s | .rel s | .acqRel s => s.enc

def Order.ofCode (mod : BitVec 4) (sc : BitVec 3) : Order :=
  match mod.toNat with
  | 0 => .plain
  | 1 => .acq (Scope.ofCode sc)
  | 2 => .rel (Scope.ofCode sc)
  | _ => .acqRel (Scope.ofCode sc)

/-- R151, R198. -/
def Cond.enc : Cond → BitVec 4
  | .eq => 0 | .ne => 1 | .lt => 2 | .le => 3 | .gt => 4 | .ge => 5 | .uo => 6

def Cond.ofCode (n : BitVec 4) : Cond :=
  match n.toNat with
  | 0 => .eq | 1 => .ne | 2 => .lt | 3 => .le | 4 => .gt | 5 => .ge | _ => .uo

/-- R307. -/
def AmoOp.code : AmoOp → Nat
  | .add => 0 | .and => 1 | .or => 2 | .xor => 3 | .min => 4 | .max => 5 | .swap => 6 | .cas => 7

def AmoOp.ofCode (n : Nat) : AmoOp :=
  match n with
  | 0 => .add | 1 => .and | 2 => .or | 3 => .xor | 4 => .min | 5 => .max | 6 => .swap | _ => .cas

def RedOp.code : RedOp → Nat
  | .add => 0 | .min => 1 | .max => 2 | .and => 3 | .or => 4 | .xor => 5

def RedOp.ofCode (n : Nat) : RedOp :=
  match n with
  | 0 => .add | 1 => .min | 2 => .max | 3 => .and | 4 => .or | _ => .xor

/-- R270. -/
def CmOp.code : CmOp → Nat
  | .clean => 1 | .inval => 2 | .cinv => 3

def CmOp.ofCode (n : Nat) : CmOp :=
  match n with
  | 1 => .clean | 2 => .inval | _ => .cinv

def CmLevel.code : CmLevel → Nat
  | .l1 => 0 | .dl2 => 1 | .hl2 => 2 | .mem => 3

def CmLevel.ofCode (n : Nat) : CmLevel :=
  match n with
  | 0 => .l1 | 1 => .dl2 | 2 => .hl2 | _ => .mem

/-- MOD[2:0] of a rounding mode (R98). -/
def Rnd.code : Rnd → Nat
  | .rne => 0 | .rtz => 1 | .rdn => 2 | .rup => 3 | .rna => 4 | .sr _ => 5

/-- The C field of a rounding mode: the register of SR, else zero. -/
def Rnd.encC : Rnd → BitVec 6
  | .sr c => BitVec.ofNat 6 c.val
  | _ => 0

/-- Register number of a file of `n` registers. -/
abbrev regOf (n : Nat) [NeZero n] (x : BitVec 6) : Fin n := Fin.ofNat n x.toNat
abbrev encReg {n : Nat} (x : Fin n) : BitVec 6 := BitVec.ofNat 6 x.val

def Rnd.ofCode (mod : BitVec 4) (c : BitVec 6) : Rnd :=
  match mod.toNat % 8 with
  | 0 => .rne | 1 => .rtz | 2 => .rdn | 3 => .rup | 4 => .rna | _ => .sr (regOf 32 c)

/-- MOD with the saturate bit (R98). -/
def encSat (m : Nat) (sat : Bool) : BitVec 4 := BitVec.ofNat 4 (m + if sat then 8 else 0)
def satOf (mod : BitVec 4) : Bool := mod.getLsbD 3

abbrev bit (b : Bool) : Nat := if b then 1 else 0
abbrev immN (n : Nat) : BitVec 40 := BitVec.ofNat 40 n

/-! Shapes shared by the rows of the encoding tables. -/

/-- MAJ, MIN and the predicate, every other field zero. -/
def rp (p : Pred) (maj min : BitVec 8) : Raw :=
  { maj, min, pn := BitVec.ofNat 1 (bit p.neg), pf := BitVec.ofNat 3 p.f.val }

def Raw.pred (r : Raw) : Pred := ⟨r.pn == 1, Fin.ofNat 8 r.pf.toNat⟩

def Raw.putB (r : Raw) : OpB → Raw
  | .reg b => { r with b := encReg b }
  | .imm v => { r with ib := 1, imm := v }

def Raw.opB (r : Raw) : OpB := if r.ib = 1 then .imm r.imm else .reg (regOf 64 r.b)

def Raw.putVB (r : Raw) : OpVB → Raw
  | .reg b => { r with b := encReg b }
  | .imm v => { r with ib := 1, imm := v }

def Raw.opVB (r : Raw) : OpVB := if r.ib = 1 then .imm r.imm else .reg (regOf 32 r.b)

/-- wD, wA, OpB with a type and a saturate bit (0x10). -/
def rInt (p : Pred) (min : BitVec 8) (ty : Ty) (sat : Bool) (d a : WReg) (b : OpB) : Raw :=
  { rp p 0x10 min with ty := ty.enc, mod := encSat 0 sat, d := encReg d, a := encReg a }.putB b

/-- wD, wA, OpB without a type (0x11). -/
def rLog (p : Pred) (min : BitVec 8) (d a : WReg) (b : OpB) : Raw :=
  { rp p 0x11 min with d := encReg d, a := encReg a }.putB b

def rLog1 (p : Pred) (min : BitVec 8) (d a : WReg) : Raw :=
  { rp p 0x11 min with d := encReg d, a := encReg a }

def rBf (p : Pred) (min : BitVec 8) (d a : WReg) (pos : BitVec 6) (len : BitVec 7) : Raw :=
  { rp p 0x13 min with d := encReg d, a := encReg a, imm := immN (len.toNat * 64 + pos.toNat) }

/-- vD, vA, vB of a type with rounding and saturation (0x40, 0x41). -/
def rVec (p : Pred) (maj min : BitVec 8) (ty : Ty) (m : Rnd) (sat : Bool) (d a : VReg) (b : OpVB) : Raw :=
  { rp p maj min with ty := ty.enc, mod := encSat m.code sat, c := m.encC, d := encReg d, a := encReg a }.putVB b

/-- vD, vA of a type with rounding and saturation (0x40, 0x48). -/
def rVec1 (p : Pred) (maj min : BitVec 8) (ty : Ty) (m : Rnd) (sat : Bool) (d a : VReg) : Raw :=
  { rp p maj min with ty := ty.enc, mod := encSat m.code sat, c := m.encC, d := encReg d, a := encReg a }

/-- vcvt, vquant, vdq (0x44). -/
def rCvt (p : Pred) (min : BitVec 8) (ty sty : Ty) (part : BitVec 3) (m : Rnd) (sat : Bool) (d a : VReg)
    (b : BitVec 6) : Raw :=
  { rp p 0x44 min with ty := ty.enc, mod := encSat m.code sat, c := m.encC, d := encReg d, a := encReg a, b,
                       imm := immN (part.toNat * 16 + sty.code) }

/-- wD, vA reductions (0x45). -/
def rRed (p : Pred) (min : BitVec 8) (ty : Ty) (m : Rnd) (sat : Bool) (d : WReg) (a : VReg) (b : BitVec 6) : Raw :=
  { rp p 0x45 min with ty := ty.enc, mod := encSat m.code sat, c := m.encC, d := encReg d, a := encReg a, b }

/-- vD, vA, vB with a type and IMM (0x46). -/
def rPerm (p : Pred) (min : BitVec 8) (ty : Ty) (d a : VReg) (b : BitVec 6) (imm : Nat) : Raw :=
  { rp p 0x46 min with ty := ty.enc, d := encReg d, a := encReg a, b, imm := immN imm }

def rFlag (p : Pred) (min : BitVec 8) (ty : BitVec 4) (d : BitVec 6) (a : FReg) (b : BitVec 6) : Raw :=
  { rp p 0x49 min with ty, d, a := encReg a, b }

def rLazy (p : Pred) (maj min : BitVec 8) (d a b c : BitVec 6) : Raw := { rp p maj min with d, a, b, c }

/-- Scalar and vector memory forms (0x20 to 0x24). -/
def rMem (p : Pred) (maj min : BitVec 8) (ty : Ty) (o : Order) (d : BitVec 6) (a : WReg) (c : BitVec 6) (b : OpB) : Raw :=
  { rp p maj min with ty := ty.enc, mod := o.encMod, sc := o.encSc, d, a := encReg a, c }.putB b

def rTile (p : Pred) (min : BitVec 8) (d : TReg) (a : WReg) (b : OpB) : Raw :=
  { rp p 0x71 min with d := encReg d, a := encReg a }.putB b

def rMac (p : Pred) (min : BitVec 8) (m : Rnd) (sat : Bool) (row0 col0 : BitVec 7) (d : MReg) (a b : TReg) : Raw :=
  { rp p 0x73 min with ty := 8, mod := encSat m.code sat, c := m.encC, d := encReg d, a := encReg a, b := encReg b,
                       imm := immN (col0.toNat * 256 + row0.toNat) }

def rTask (p : Pred) (min : BitVec 8) (d a b : WReg) (join : Bool) (live : BitVec 10) (stage : BitVec 16) : Raw :=
  { rp p 0x38 min with d := encReg d, a := encReg a, b := encReg b,
                       imm := immN (bit join * 2 ^ 26 + live.toNat * 2 ^ 16 + stage.toNat) }

/-- The fields of a term, each row from its chapter's encoding table. An event has none. -/
def Instr.toRaw : Instr → Raw
  | .nop p => rp p 0x01 0x00
  | .ifence p => rp p 0x01 0x01
  | .br p slot disp => { rp p 0x02 0x00 with sc := BitVec.ofNat 3 slot.val, imm := disp }
  | .call p d slot disp => { rp p 0x02 0x01 with d := encReg d, sc := BitVec.ofNat 3 slot.val, imm := disp }
  | .loop p a slot disp => { rp p 0x02 0x04 with a := encReg a, sc := BitVec.ofNat 3 slot.val, imm := disp }
  | .jr p link a =>
    (match link with
    | some d => { rp p 0x02 0x02 with d := encReg d, a := encReg a, mod := 1 }
    | none => { rp p 0x02 0x02 with a := encReg a })
  | .ret p a => { rp p 0x02 0x03 with a := encReg a }
  | .trap p code => { rp p 0x03 0x00 with imm := immN code.toNat }
  | .eret p => rp p 0x03 0x01
  | .uret p => rp p 0x03 0x02
  | .done p => rp p 0x03 0x03
  | .yield p live => { rp p 0x03 0x04 with imm := immN live.toNat }
  | .movc p d creg => { rp p 0x04 0x00 with d := encReg d, imm := immN creg.toNat }
  | .mtc p a creg => { rp p 0x04 0x01 with a := encReg a, imm := immN creg.toNat }
  | .wpsw p d a => { rp p 0x04 0x02 with d := encReg d, a := encReg a }
  | .prel p n => { rp p 0x04 0x03 with imm := immN n.toNat }
  | .rdid p d sel => { rp p 0x05 0x00 with d := encReg d, imm := immN sel.toNat }
  | .rdccy p d => { rp p 0x05 0x01 with d := encReg d }
  | .rdterr p d a mode => { rp p 0x05 0x02 with d := encReg d, a := encReg a, imm := immN (bit mode) }
  | .iadd p ty sat d a b => rInt p 0x00 ty sat d a b
  | .isub p ty sat d a b => rInt p 0x01 ty sat d a b
  | .imul p ty sat d a b => rInt p 0x02 ty sat d a b
  | .imulh p ty d a b => rInt p 0x03 ty false d a b
  | .imulhn p ty d a b => rInt p 0x04 ty false d a b
  | .idiv p ty sat d a b => rInt p 0x05 ty sat d a b
  | .idivn p ty d a b => rInt p 0x06 ty false d a b
  | .irem p ty d a b => rInt p 0x07 ty false d a b
  | .iremn p ty d a b => rInt p 0x08 ty false d a b
  | .imin p ty d a b => rInt p 0x09 ty false d a b
  | .imax p ty d a b => rInt p 0x0A ty false d a b
  | .iminn p ty d a b => rInt p 0x0B ty false d a b
  | .imaxn p ty d a b => rInt p 0x0C ty false d a b
  | .iabs p ty sat d a => rInt p 0x0D ty sat d a (.reg 0)
  | .ineg p ty sat d a => rInt p 0x0E ty sat d a (.reg 0)
  | .iand p d a b => rLog p 0x00 d a b
  | .ior p d a b => rLog p 0x01 d a b
  | .ixor p d a b => rLog p 0x02 d a b
  | .iandn p d a b => rLog p 0x03 d a b
  | .ishl p d a b => rLog p 0x04 d a b
  | .ishr p d a b => rLog p 0x05 d a b
  | .isar p d a b => rLog p 0x06 d a b
  | .irot p d a b => rLog p 0x07 d a b
  | .clz p d a => rLog1 p 0x08 d a
  | .ctz p d a => rLog1 p 0x09 d a
  | .popc p d a => rLog1 p 0x0A d a
  | .icmp p ty cond d a b =>
    { rp p 0x12 0x00 with ty := ty.enc, mod := cond.enc, d := encReg d, a := encReg a }.putB b
  | .isel p d a b c => { rp p 0x12 0x01 with d := encReg d, a := encReg a, c := encReg c }.putB b
  | .ext p d a pos len => rBf p 0x00 d a pos len
  | .extn p d a pos len => rBf p 0x01 d a pos len
  | .ins p d a pos len => rBf p 0x02 d a pos len
  | .li p d imm =>
    { rp p 0x14 0x00 with
      d := encReg d, b := imm.extractLsb' 58 6, c := imm.extractLsb' 52 6, ty := imm.extractLsb' 48 4,
      mod := imm.extractLsb' 44 4, sc := imm.extractLsb' 41 3, ib := imm.extractLsb' 40 1, imm := imm.extractLsb' 0 40 }
  | .lea p pcrel sh d a b =>
    { rp p 0x14 0x01 with mod := encSat sh.toNat pcrel, d := encReg d, a := encReg a }.putB b
  | .ld p ty o d a b => rMem p 0x20 0x00 ty o (encReg d) a 0 b
  | .st p ty o a b c => rMem p 0x21 0x00 ty o 0 a (encReg c) b
  | .vld p ty o d a b => rMem p 0x22 0x00 ty o (encReg d) a 0 b
  | .vst p ty o a b c => rMem p 0x22 0x01 ty o 0 a (encReg c) b
  | .vlds p ty d a b => rMem p 0x22 0x02 ty .plain (encReg d) a 0 b
  | .vsts p ty a b c => rMem p 0x22 0x03 ty .plain 0 a (encReg c) b
  | .vldg p ty d a b => { rp p 0x23 0x00 with ty := ty.enc, d := encReg d, a := encReg a, b := encReg b }
  | .vstx p ty a b c => { rp p 0x23 0x01 with ty := ty.enc, a := encReg a, b := encReg b, c := encReg c }
  | .ldrc p ty count d a b => rMem p 0x24 0x00 ty .plain (encReg d) a (BitVec.ofNat 6 count.toNat) b
  | .ldc p ty d a b => rMem p 0x24 0x01 ty .plain (encReg d) a 0 b
  | .sbind p write d a b c =>
    { rp p 0x25 0x00 with d := encReg d, a := encReg a, b := encReg b, c := encReg c, imm := immN (bit write) }
  | .sunbind p d => { rp p 0x25 0x01 with d := encReg d }
  | .cmaint p op level a b =>
    { rp p 0x26 0x00 with mod := BitVec.ofNat 4 (level.code * 4 + op.code), a := encReg a }.putB b
  | .icinv p a b => { rp p 0x26 0x01 with a := encReg a }.putB b
  | .fence p o => { rp p 0x27 0x00 with mod := o.encMod, sc := o.encSc }
  | .amo p op ty o a c =>
    { rp p 0x30 0x00 with ty := ty.enc, mod := o.encMod, sc := o.encSc, a := encReg a, c := encReg c, imm := immN op.code }
  | .amof p op ty o d a b c =>
    { rp p 0x31 0x00 with ty := ty.enc, mod := o.encMod, sc := o.encSc, d := encReg d, a := encReg a, b := encReg b,
                          c := encReg c, imm := immN op.code }
  | .red p op ty m a src =>
    let r := { rp p 0x32 0x00 with ty := ty.enc, mod := encSat m.code false, a := encReg a }
    (match src with
    | .w c => { r with c := encReg c, imm := immN op.code }
    | .v c => { r with c := encReg c, imm := immN (8 + op.code) })
  | .arrive p k => { rp p 0x33 0x00 with imm := immN k.val }
  | .wait p k => { rp p 0x33 0x01 with imm := immN k.val }
  | .sstep p k => { rp p 0x33 0x02 with imm := immN k.val }
  | .tcommit p w => { rp p 0x34 0x00 with imm := immN (bit w) }
  | .trd p d stream tail => { rp p 0x34 0x01 with d := encReg d, imm := immN (bit tail * 16 + stream.val) }
  | .thead p d w => { rp p 0x34 0x02 with d := encReg d, imm := immN (bit w) }
  | .fork p d a b jn live stage => rTask p 0x00 d a b jn live stage
  | .join p live => { rp p 0x38 0x01 with imm := immN live.toNat }
  | .spawn p d a b jn live stage => rTask p 0x02 d a b jn live stage
  | .suspend p a live => { rp p 0x38 0x03 with a := encReg a, imm := immN live.toNat }
  | .launch p graph a b c stream =>
    { rp p 0x39 0x00 with mod := BitVec.ofNat 4 (bit graph), a := encReg a, b := encReg b, c := encReg c,
                          imm := immN stream.val }
  | .gdone p => rp p 0x39 0x01
  | .vadd p ty m sat d a b => rVec p 0x40 0x00 ty m sat d a b
  | .vsub p ty m sat d a b => rVec p 0x40 0x01 ty m sat d a b
  | .vmul p ty m sat d a b => rVec p 0x40 0x02 ty m sat d a b
  | .vmin p ty d a b => rVec p 0x40 0x03 ty .rne false d a b
  | .vmax p ty d a b => rVec p 0x40 0x04 ty .rne false d a b
  | .vabs p ty sat d a => rVec1 p 0x40 0x05 ty .rne sat d a
  | .vneg p ty sat d a => rVec1 p 0x40 0x06 ty .rne sat d a
  | .vfma p ty m sat d a b => rVec p 0x41 0x00 ty m sat d a b
  | .vfms p ty m sat d a b => rVec p 0x41 0x01 ty m sat d a b
  | .vfnma p ty m sat d a b => rVec p 0x41 0x02 ty m sat d a b
  | .vand p ty d a b => rVec p 0x42 0x00 ty .rne false d a b
  | .vor p ty d a b => rVec p 0x42 0x01 ty .rne false d a b
  | .vxor p ty d a b => rVec p 0x42 0x02 ty .rne false d a b
  | .vshl p ty d a b => rVec p 0x42 0x03 ty .rne false d a b
  | .vshr p ty d a b => rVec p 0x42 0x04 ty .rne false d a b
  | .vsar p ty d a b => rVec p 0x42 0x05 ty .rne false d a b
  | .vcmp p ty cond d a b =>
    { rp p 0x43 0x00 with ty := ty.enc, mod := cond.enc, d := encReg d, a := encReg a }.putVB b
  | .vsel p ty d a b c =>
    { rp p 0x43 0x01 with ty := ty.enc, d := encReg d, a := encReg a, c := encReg c }.putVB b
  | .vcvt p ty sty part m sat d a => rCvt p 0x00 ty sty part m sat d a 0
  | .vquant p ty sty part m sat d a b => rCvt p 0x01 ty sty part m sat d a (encReg b)
  | .vdq p ty sty part m sat d a b => rCvt p 0x02 ty sty part m sat d a (encReg b)
  | .vredsum p ty m sat d a => rRed p 0x00 ty m sat d a 0
  | .vredmax p ty d a => rRed p 0x01 ty .rne false d a 0
  | .vredmin p ty d a => rRed p 0x02 ty .rne false d a 0
  | .vamax p ty d a => rRed p 0x03 ty .rne false d a 0
  | .vdot p ty m sat d a b => rRed p 0x04 ty m sat d a (encReg b)
  | .vperm p ty d a b => rPerm p 0x00 ty d a (encReg b) 0
  | .vbcast p ty d a => { rp p 0x46 0x01 with ty := ty.enc, d := encReg d, a := encReg a }
  | .vslide p ty k d a b => rPerm p 0x02 ty d a (encReg b) k.toNat
  | .vzip p ty part d a b => rPerm p 0x03 ty d a (encReg b) (bit part)
  | .vunzip p ty part d a b => rPerm p 0x04 ty d a (encReg b) (bit part)
  | .vins p ty d a b => { rp p 0x47 0x00 with ty := ty.enc, d := encReg d, a := encReg a }.putB b
  | .vext p ty d a b => { rp p 0x47 0x01 with ty := ty.enc, d := encReg d, a := encReg a }.putB b
  | .vrecip p ty m sat d a => rVec1 p 0x48 0x00 ty m sat d a
  | .vrsqrt p ty m sat d a => rVec1 p 0x48 0x01 ty m sat d a
  | .vexp2 p ty m sat d a => rVec1 p 0x48 0x02 ty m sat d a
  | .vlog2 p ty m sat d a => rVec1 p 0x48 0x03 ty m sat d a
  | .fand p d a b => rFlag p 0x00 0 (encReg d) a (encReg b)
  | .for_ p d a b => rFlag p 0x01 0 (encReg d) a (encReg b)
  | .fxor p d a b => rFlag p 0x02 0 (encReg d) a (encReg b)
  | .fnot p d a => rFlag p 0x03 0 (encReg d) a 0
  | .fpop p ty d a => rFlag p 0x04 ty.enc (encReg d) a 0
  | .ffirst p ty d a => rFlag p 0x05 ty.enc (encReg d) a 0
  | .ydraw p d a => rLazy p 0x60 0x00 (encReg d) (encReg a) 0 0
  | .yset p d a => rLazy p 0x60 0x01 (encReg d) (encReg a) 0 0
  | .ycopy p d a => rLazy p 0x60 0x02 (encReg d) (encReg a) 0 0
  | .yrd p asF32 m d a =>
    { rLazy p 0x60 0x03 (encReg d) (encReg a) 0 0 with ty := if asF32 then 8 else 7, mod := encSat m.code false }
  | .ycmp p asF32 d a b => { rLazy p 0x61 0x00 (encReg d) (encReg a) (encReg b) 0 with ty := if asF32 then 8 else 7 }
  | .ycmpq p d a b c => rLazy p 0x61 0x01 (encReg d) (encReg a) (encReg b) (encReg c)
  | .ycmpy p d a b => rLazy p 0x61 0x02 (encReg d) (encReg a) (encReg b) 0
  | .ycat p d a b c => rLazy p 0x62 0x00 (encReg d) (encReg a) (encReg b) (encReg c)
  | .yext p d k => { rp p 0x63 0x00 with d := encReg d, imm := immN k.toNat }
  | .ydig p d a => rLazy p 0x63 0x01 (encReg d) (encReg a) 0 0
  | .bgreq p d a tag => { rp p 0x68 0x00 with d := encReg d, a := encReg a, imm := immN tag.toNat }
  | .bgtry p d a tag => { rp p 0x68 0x01 with d := encReg d, a := encReg a, imm := immN tag.toNat }
  | .bgsleep p noprom tag => { rp p 0x69 0x00 with imm := immN (bit noprom * 16 + tag.toNat) }
  | .bgwm p d recv tag => { rp p 0x69 0x01 with d := encReg d, imm := immN (recv.toNat * 16 + tag.toNat) }
  | .mcfg p ty d rows cols =>
    { rp p 0x70 0x00 with ty := ty.enc, d := encReg d, imm := immN (cols.toNat * 256 + rows.toNat) }
  | .tld p d a b => rTile p 0x00 d a b
  | .tldt p d a b => rTile p 0x01 d a b
  | .tst p d a b => rTile p 0x02 d a b
  | .tzero p d => { rp p 0x72 0x00 with d := encReg d }
  | .mmac p m sat row0 col0 d a b => rMac p 0x00 m sat row0 col0 d a b
  | .mmacs p m sat row0 col0 d a b => rMac p 0x01 m sat row0 col0 d a b
  | .mscale p m sat row0 col0 kb d a b c =>
    { rp p 0x74 0x00 with ty := 8, mod := encSat m.code sat, d := encReg d, a := encReg a, b := encReg b, c := encReg c,
                          imm := immN (kb.toNat * 65536 + col0.toNat * 256 + row0.toNat) }
  | .mrd p d a row part =>
    { rp p 0x75 0x00 with ty := 8, d := encReg d, a := encReg a, imm := immN (part.toNat * 128 + row.toNat) }
  | .mwr p d a row part =>
    { rp p 0x75 0x01 with ty := 8, d := encReg d, a := encReg a, imm := immN (part.toNat * 128 + row.toNat) }
  | .mclr p d => { rp p 0x75 0x02 with d := encReg d }
  | .mcmd p a b => { rp p 0x76 0x00 with a := encReg a, b := encReg b }
  | .mcap p d a rights => { rp p 0x76 0x01 with d := encReg d, a := encReg a, imm := immN rights.toNat }
  | .mswap p a b c len => { rp p 0x77 0x00 with a := encReg a, b := encReg b, c := encReg c, imm := immN len.toNat }
  | .mwait p mode => { rp p 0x78 0x00 with imm := immN mode.toNat }
  | _ => {}

/-! The terms the fields build, group by group of the opcode map (R100). -/

/-- Bits [lo+n-1:lo] of IMM. -/
abbrev Raw.immBits (r : Raw) (lo n : Nat) : BitVec n := r.imm.extractLsb' lo n
abbrev Raw.immBit (r : Raw) (lo : Nat) : Bool := r.imm.getLsbD lo
abbrev Raw.typ (r : Raw) : Ty := Ty.ofCode r.ty
abbrev Raw.rnd (r : Raw) : Rnd := Rnd.ofCode r.mod r.c
abbrev Raw.sat (r : Raw) : Bool := satOf r.mod
abbrev Raw.order (r : Raw) : Order := Order.ofCode r.mod r.sc
abbrev Raw.dw (r : Raw) : WReg := regOf 64 r.d
abbrev Raw.aw (r : Raw) : WReg := regOf 64 r.a
abbrev Raw.bw (r : Raw) : WReg := regOf 64 r.b
abbrev Raw.cw (r : Raw) : WReg := regOf 64 r.c
abbrev Raw.dv (r : Raw) : VReg := regOf 32 r.d
abbrev Raw.av (r : Raw) : VReg := regOf 32 r.a
abbrev Raw.bv (r : Raw) : VReg := regOf 32 r.b
abbrev Raw.cv (r : Raw) : VReg := regOf 32 r.c
abbrev Raw.d8 (r : Raw) : Fin 8 := regOf 8 r.d
abbrev Raw.a8 (r : Raw) : Fin 8 := regOf 8 r.a
abbrev Raw.b8 (r : Raw) : Fin 8 := regOf 8 r.b
abbrev Raw.c8 (r : Raw) : Fin 8 := regOf 8 r.c
abbrev Raw.dm (r : Raw) : MReg := regOf 2 r.d
abbrev Raw.am (r : Raw) : MReg := regOf 2 r.a
abbrev Raw.slot (r : Raw) : Fin 5 := Fin.ofNat 5 r.sc.toNat

def candSys (r : Raw) : Option Instr :=
  let p := r.pred
  match r.maj.toNat, r.min.toNat with
  | 1, 0 => some (.nop p)
  | 1, 1 => some (.ifence p)
  | 2, 0 => some (.br p r.slot r.imm)
  | 2, 1 => some (.call p r.dw r.slot r.imm)
  | 2, 4 => some (.loop p r.aw r.slot r.imm)
  | 2, 2 => some (.jr p (if r.mod = 1 then some r.dw else none) r.aw)
  | 2, 3 => some (.ret p r.aw)
  | 3, 0 => some (.trap p (r.immBits 0 16))
  | 3, 1 => some (.eret p)
  | 3, 2 => some (.uret p)
  | 3, 3 => some (.done p)
  | 3, 4 => some (.yield p (r.immBits 0 10))
  | 4, 0 => some (.movc p r.dw (r.immBits 0 12))
  | 4, 1 => some (.mtc p r.aw (r.immBits 0 12))
  | 4, 2 => some (.wpsw p r.dw r.aw)
  | 4, 3 => some (.prel p (r.immBits 0 9))
  | 5, 0 => some (.rdid p r.dw (r.immBits 0 4))
  | 5, 1 => some (.rdccy p r.dw)
  | 5, 2 => some (.rdterr p r.dw r.aw (r.immBit 0))
  | _, _ => none

def candInt (r : Raw) : Option Instr :=
  let p := r.pred
  match r.min.toNat with
  | 0 => some (.iadd p r.typ r.sat r.dw r.aw r.opB)
  | 1 => some (.isub p r.typ r.sat r.dw r.aw r.opB)
  | 2 => some (.imul p r.typ r.sat r.dw r.aw r.opB)
  | 3 => some (.imulh p r.typ r.dw r.aw r.opB)
  | 4 => some (.imulhn p r.typ r.dw r.aw r.opB)
  | 5 => some (.idiv p r.typ r.sat r.dw r.aw r.opB)
  | 6 => some (.idivn p r.typ r.dw r.aw r.opB)
  | 7 => some (.irem p r.typ r.dw r.aw r.opB)
  | 8 => some (.iremn p r.typ r.dw r.aw r.opB)
  | 9 => some (.imin p r.typ r.dw r.aw r.opB)
  | 10 => some (.imax p r.typ r.dw r.aw r.opB)
  | 11 => some (.iminn p r.typ r.dw r.aw r.opB)
  | 12 => some (.imaxn p r.typ r.dw r.aw r.opB)
  | 13 => some (.iabs p r.typ r.sat r.dw r.aw)
  | 14 => some (.ineg p r.typ r.sat r.dw r.aw)
  | _ => none

def candLog (r : Raw) : Option Instr :=
  let p := r.pred
  match r.min.toNat with
  | 0 => some (.iand p r.dw r.aw r.opB)
  | 1 => some (.ior p r.dw r.aw r.opB)
  | 2 => some (.ixor p r.dw r.aw r.opB)
  | 3 => some (.iandn p r.dw r.aw r.opB)
  | 4 => some (.ishl p r.dw r.aw r.opB)
  | 5 => some (.ishr p r.dw r.aw r.opB)
  | 6 => some (.isar p r.dw r.aw r.opB)
  | 7 => some (.irot p r.dw r.aw r.opB)
  | 8 => some (.clz p r.dw r.aw)
  | 9 => some (.ctz p r.dw r.aw)
  | 10 => some (.popc p r.dw r.aw)
  | _ => none

def candMisc (r : Raw) : Option Instr :=
  let p := r.pred
  match r.maj.toNat, r.min.toNat with
  | 0x12, 0 => some (.icmp p r.typ (Cond.ofCode r.mod) r.d8 r.aw r.opB)
  | 0x12, 1 => some (.isel p r.dw r.aw r.opB r.c8)
  | 0x13, 0 => some (.ext p r.dw r.aw (r.immBits 0 6) (r.immBits 6 7))
  | 0x13, 1 => some (.extn p r.dw r.aw (r.immBits 0 6) (r.immBits 6 7))
  | 0x13, 2 => some (.ins p r.dw r.aw (r.immBits 0 6) (r.immBits 6 7))
  | 0x14, 0 => some (.li p r.dw (r.b ++ r.c ++ r.ty ++ r.mod ++ r.sc ++ r.ib ++ r.imm))
  | 0x14, 1 => some (.lea p (satOf r.mod) (r.mod.extractLsb' 0 3) r.dw r.aw r.opB)
  | _, _ => none

def candMem (r : Raw) : Option Instr :=
  let p := r.pred
  match r.maj.toNat, r.min.toNat with
  | 0x20, 0 => some (.ld p r.typ r.order r.dw r.aw r.opB)
  | 0x21, 0 => some (.st p r.typ r.order r.aw r.opB r.cw)
  | 0x22, 0 => some (.vld p r.typ r.order r.dv r.aw r.opB)
  | 0x22, 1 => some (.vst p r.typ r.order r.aw r.opB r.cv)
  | 0x22, 2 => some (.vlds p r.typ r.dv r.aw r.opB)
  | 0x22, 3 => some (.vsts p r.typ r.aw r.opB r.cv)
  | 0x23, 0 => some (.vldg p r.typ r.dv r.aw r.bv)
  | 0x23, 1 => some (.vstx p r.typ r.aw r.bv r.cv)
  | 0x24, 0 => some (.ldrc p r.typ (r.c.extractLsb' 0 4) r.dw r.aw r.opB)
  | 0x24, 1 => some (.ldc p r.typ r.dw r.aw r.opB)
  | 0x25, 0 => some (.sbind p (r.immBit 0) r.dv r.aw r.bw r.cw)
  | 0x25, 1 => some (.sunbind p r.dv)
  | 0x26, 0 => some (.cmaint p (CmOp.ofCode (r.mod.toNat % 4)) (CmLevel.ofCode (r.mod.toNat / 4)) r.aw r.opB)
  | 0x26, 1 => some (.icinv p r.aw r.opB)
  | 0x27, 0 => some (.fence p r.order)
  | _, _ => none

def candSync (r : Raw) : Option Instr :=
  let p := r.pred
  match r.maj.toNat, r.min.toNat with
  | 0x30, 0 => some (.amo p (AmoOp.ofCode (r.immBits 0 3).toNat) r.typ r.order r.aw r.cw)
  | 0x31, 0 => some (.amof p (AmoOp.ofCode (r.immBits 0 3).toNat) r.typ r.order r.dw r.aw r.bw r.cw)
  | 0x32, 0 =>
    some (.red p (RedOp.ofCode (r.immBits 0 3).toNat) r.typ (Rnd.ofCode r.mod 0) r.aw
      (if r.immBit 3 then .v r.cv else .w r.cw))
  | 0x33, 0 => some (.arrive p (Fin.ofNat 8 (r.immBits 0 3).toNat))
  | 0x33, 1 => some (.wait p (Fin.ofNat 8 (r.immBits 0 3).toNat))
  | 0x33, 2 => some (.sstep p (Fin.ofNat 8 (r.immBits 0 3).toNat))
  | 0x34, 0 => some (.tcommit p (r.immBit 0))
  | 0x34, 1 => some (.trd p r.dw (Fin.ofNat 16 (r.immBits 0 4).toNat) (r.immBit 4))
  | 0x34, 2 => some (.thead p r.dw (r.immBit 0))
  | 0x38, 0 => some (.fork p r.dw r.aw r.bw (r.immBit 26) (r.immBits 16 10) (r.immBits 0 16))
  | 0x38, 1 => some (.join p (r.immBits 0 10))
  | 0x38, 2 => some (.spawn p r.dw r.aw r.bw (r.immBit 26) (r.immBits 16 10) (r.immBits 0 16))
  | 0x38, 3 => some (.suspend p r.aw (r.immBits 0 10))
  | 0x39, 0 => some (.launch p (r.mod == 1) r.aw r.bw r.cw (Fin.ofNat 16 (r.immBits 0 4).toNat))
  | 0x39, 1 => some (.gdone p)
  | _, _ => none

def candVec (r : Raw) : Option Instr :=
  let p := r.pred
  match r.maj.toNat, r.min.toNat with
  | 0x40, 0 => some (.vadd p r.typ r.rnd r.sat r.dv r.av r.opVB)
  | 0x40, 1 => some (.vsub p r.typ r.rnd r.sat r.dv r.av r.opVB)
  | 0x40, 2 => some (.vmul p r.typ r.rnd r.sat r.dv r.av r.opVB)
  | 0x40, 3 => some (.vmin p r.typ r.dv r.av r.opVB)
  | 0x40, 4 => some (.vmax p r.typ r.dv r.av r.opVB)
  | 0x40, 5 => some (.vabs p r.typ r.sat r.dv r.av)
  | 0x40, 6 => some (.vneg p r.typ r.sat r.dv r.av)
  | 0x41, 0 => some (.vfma p r.typ r.rnd r.sat r.dv r.av r.opVB)
  | 0x41, 1 => some (.vfms p r.typ r.rnd r.sat r.dv r.av r.opVB)
  | 0x41, 2 => some (.vfnma p r.typ r.rnd r.sat r.dv r.av r.opVB)
  | 0x42, 0 => some (.vand p r.typ r.dv r.av r.opVB)
  | 0x42, 1 => some (.vor p r.typ r.dv r.av r.opVB)
  | 0x42, 2 => some (.vxor p r.typ r.dv r.av r.opVB)
  | 0x42, 3 => some (.vshl p r.typ r.dv r.av r.opVB)
  | 0x42, 4 => some (.vshr p r.typ r.dv r.av r.opVB)
  | 0x42, 5 => some (.vsar p r.typ r.dv r.av r.opVB)
  | 0x43, 0 => some (.vcmp p r.typ (Cond.ofCode r.mod) r.d8 r.av r.opVB)
  | 0x43, 1 => some (.vsel p r.typ r.dv r.av r.opVB r.c8)
  | _, _ => none

def candVec2 (r : Raw) : Option Instr :=
  let p := r.pred
  let sty := Ty.ofCode (r.immBits 0 4)
  match r.maj.toNat, r.min.toNat with
  | 0x44, 0 => some (.vcvt p r.typ sty (r.immBits 4 3) r.rnd r.sat r.dv r.av)
  | 0x44, 1 => some (.vquant p r.typ sty (r.immBits 4 3) r.rnd r.sat r.dv r.av r.bw)
  | 0x44, 2 => some (.vdq p r.typ sty (r.immBits 4 3) r.rnd r.sat r.dv r.av r.bw)
  | 0x45, 0 => some (.vredsum p r.typ r.rnd r.sat r.dw r.av)
  | 0x45, 1 => some (.vredmax p r.typ r.dw r.av)
  | 0x45, 2 => some (.vredmin p r.typ r.dw r.av)
  | 0x45, 3 => some (.vamax p r.typ r.dw r.av)
  | 0x45, 4 => some (.vdot p r.typ r.rnd r.sat r.dw r.av r.bv)
  | 0x46, 0 => some (.vperm p r.typ r.dv r.av r.bv)
  | 0x46, 1 => some (.vbcast p r.typ r.dv r.aw)
  | 0x46, 2 => some (.vslide p r.typ (r.immBits 0 9) r.dv r.av r.bv)
  | 0x46, 3 => some (.vzip p r.typ (r.immBit 0) r.dv r.av r.bv)
  | 0x46, 4 => some (.vunzip p r.typ (r.immBit 0) r.dv r.av r.bv)
  | 0x47, 0 => some (.vins p r.typ r.dv r.aw r.opB)
  | 0x47, 1 => some (.vext p r.typ r.dw r.av r.opB)
  | 0x48, 0 => some (.vrecip p r.typ r.rnd r.sat r.dv r.av)
  | 0x48, 1 => some (.vrsqrt p r.typ r.rnd r.sat r.dv r.av)
  | 0x48, 2 => some (.vexp2 p r.typ r.rnd r.sat r.dv r.av)
  | 0x48, 3 => some (.vlog2 p r.typ r.rnd r.sat r.dv r.av)
  | 0x49, 0 => some (.fand p r.d8 r.a8 r.b8)
  | 0x49, 1 => some (.for_ p r.d8 r.a8 r.b8)
  | 0x49, 2 => some (.fxor p r.d8 r.a8 r.b8)
  | 0x49, 3 => some (.fnot p r.d8 r.a8)
  | 0x49, 4 => some (.fpop p r.typ r.dw r.a8)
  | 0x49, 5 => some (.ffirst p r.typ r.dw r.a8)
  | _, _ => none

def candLazy (r : Raw) : Option Instr :=
  let p := r.pred
  match r.maj.toNat, r.min.toNat with
  | 0x60, 0 => some (.ydraw p r.d8 r.aw)
  | 0x60, 1 => some (.yset p r.d8 r.aw)
  | 0x60, 2 => some (.ycopy p r.d8 r.a8)
  | 0x60, 3 => some (.yrd p (r.ty == 8) (Rnd.ofCode r.mod 0) r.dw r.a8)
  | 0x61, 0 => some (.ycmp p (r.ty == 8) r.d8 r.a8 r.bw)
  | 0x61, 1 => some (.ycmpq p r.d8 r.a8 r.bw r.cw)
  | 0x61, 2 => some (.ycmpy p r.d8 r.a8 r.b8)
  | 0x62, 0 => some (.ycat p r.dw r.a8 r.bw r.cw)
  | 0x63, 0 => some (.yext p r.d8 (r.immBits 0 3))
  | 0x63, 1 => some (.ydig p r.dv r.aw)
  | 0x68, 0 => some (.bgreq p r.dw r.aw (r.immBits 0 4))
  | 0x68, 1 => some (.bgtry p r.dw r.aw (r.immBits 0 4))
  | 0x69, 0 => some (.bgsleep p (r.immBit 4) (r.immBits 0 4))
  | 0x69, 1 => some (.bgwm p r.dw (r.immBits 4 10) (r.immBits 0 4))
  | _, _ => none

def candMat (r : Raw) : Option Instr :=
  let p := r.pred
  match r.maj.toNat, r.min.toNat with
  | 0x70, 0 => some (.mcfg p r.typ r.d8 (r.immBits 0 8) (r.immBits 8 10))
  | 0x71, 0 => some (.tld p r.d8 r.aw r.opB)
  | 0x71, 1 => some (.tldt p r.d8 r.aw r.opB)
  | 0x71, 2 => some (.tst p r.d8 r.aw r.opB)
  | 0x72, 0 => some (.tzero p r.d8)
  | 0x73, 0 => some (.mmac p r.rnd r.sat (r.immBits 0 7) (r.immBits 8 7) r.dm r.a8 r.b8)
  | 0x73, 1 => some (.mmacs p r.rnd r.sat (r.immBits 0 7) (r.immBits 8 7) r.dm r.a8 r.b8)
  | 0x74, 0 =>
    some (.mscale p (Rnd.ofCode r.mod 0) r.sat (r.immBits 0 7) (r.immBits 8 7) (r.immBits 16 6) r.dm r.am r.b8 r.c8)
  | 0x75, 0 => some (.mrd p r.dv r.am (r.immBits 0 7) (r.immBits 7 2))
  | 0x75, 1 => some (.mwr p r.dm r.av (r.immBits 0 7) (r.immBits 7 2))
  | 0x75, 2 => some (.mclr p r.dm)
  | 0x76, 0 => some (.mcmd p r.aw r.bv)
  | 0x76, 1 => some (.mcap p r.dw r.aw (r.immBits 0 6))
  | 0x77, 0 => some (.mswap p r.aw r.bw r.cw (r.immBits 0 17))
  | 0x78, 0 => some (.mwait p (r.immBits 0 2))
  | _, _ => none

/-- The term the fields build, before it is tested (R100). -/
def candidate (r : Raw) : Option Instr :=
  let m := r.maj.toNat
  if m < 0x10 then candSys r
  else if m = 0x10 then candInt r
  else if m = 0x11 then candLog r
  else if m < 0x20 then candMisc r
  else if m < 0x30 then candMem r
  else if m < 0x40 then candSync r
  else if m < 0x44 then candVec r
  else if m < 0x60 then candVec2 r
  else if m < 0x70 then candLazy r
  else candMat r

/-- The instruction a word is, or none (R102). -/
def decode (w : IWord) : Option Instr :=
  let r := Raw.unpack w
  match candidate r with
  | some i => if i.wf && decide (i.toRaw = r) then some i else none
  | none => none

/-- The word of a well-formed instruction. -/
def encode (i : Instr) : IWord := i.toRaw.pack

/-- The instruction the decoder reads from `nbits` bits `w`: the word itself, since an instruction is one 96-bit value
(R83); none when the width is not that of one instruction or less. -/
def decodeTableWord (nbits w : Nat) : Option Instr :=
  if nbits ≤ 96 then decode (BitVec.ofNat 96 (w % 2 ^ nbits)) else none

end Sys2Proof
end

