-- ==== Sys2Proof/Machine/Flags.lean ====
section
/-! DEFINITION. Flags.lean: the arithmetic flags of FPFLAGS (R137, R189). An instruction sets the union of the flags its
enabled lanes give. -/
namespace Sys2Proof.Machine

/-- A set of flags, in the bit positions of FPFLAGS (R137). -/
abbrev Fl := BitVec 6

abbrev fNV : Fl := 1
abbrev fDZ : Fl := 2
abbrev fOF : Fl := 4
abbrev fUF : Fl := 8
abbrev fNX : Fl := 16
abbrev fSAT : Fl := 32

/-- A flag set when a condition holds. -/
def flIf (c : Bool) (f : Fl) : Fl := if c then f else 0

/-- Flags are sticky: an instruction only sets them (R137). -/
def stickFlags (fpflags : BitVec 64) (f : Fl) : BitVec 64 := fpflags ||| f.setWidth 64

end Sys2Proof.Machine
end

