-- ==== Sys2Proof/Machine/Num.lean ====
section
/-! DEFINITION. Num.lean: exact values, the formats of R173 to R179, Round (R181 to R183), WindowSum (R185), the special
functions of R204. A finite value is a sign, a natural and a power of two, so sums and products are exact. -/
namespace Sys2Proof.Machine

/-- An exact value: (−1)^neg · m · 2^e, an infinity, or NaN. A zero has a sign (R175). -/
inductive Num where
  | nan
  | inf (neg : Bool)
  | fin (neg : Bool) (m : Nat) (e : Int)
  deriving DecidableEq, Repr

/-- A floating format (R174): fraction bits, bias, pattern of the largest finite magnitude, pattern of ∞, canonical
NaN (R176). -/
structure Fmt where
  p : Nat
  bias : Nat
  maxPat : Nat
  infPat : Option Nat
  nanPat : Option Nat
  deriving DecidableEq, Repr

/-- R174, R176. -/
def fmtOf : Ty → Option Fmt
  | .f32 => some ⟨23, 127, 0x7F7FFFFF, some 0x7F800000, some 0x7FC00000⟩
  | .f16 => some ⟨10, 15, 0x7BFF, some 0x7C00, some 0x7E00⟩
  | .bf16 => some ⟨7, 127, 0x7F7F, some 0x7F80, some 0x7FC0⟩
  | .e4m3 => some ⟨3, 7, 0x7E, none, some 0x7F⟩
  | .e5m2 => some ⟨2, 15, 0x7B, some 0x7C, some 0x7E⟩
  | .e2m1 => some ⟨1, 1, 7, none, none⟩
  | _ => none

/-- A whole number as an exact value. -/
def Num.ofInt (v : Int) : Num := .fin (decide (v < 0)) v.natAbs 0

/-- The integer value of an s-bit pattern (R147). -/
def intOf (signed : Bool) (s pat : Nat) : Int :=
  let u := pat % 2 ^ s
  if signed && decide (2 ^ (s - 1) ≤ u) then (u : Int) - 2 ^ s else u

/-- The term of a code of an SS8 byte, in units of 2^-6 (R177). -/
def ss8Term (s : Bool) (code : Nat) : Int :=
  if code = 0 then 0 else if s then -(2 ^ (code - 1) : Int) else 2 ^ (code - 1)

/-- The value of an SS8 byte in units of 2^-6 (R177). -/
def ss8Int (pat : Nat) : Int :=
  ss8Term (pat.testBit 7) (pat / 16 % 8) + ss8Term (pat.testBit 3) (pat % 8)

/-- The exact value of a floating pattern of `s` bits (R175). -/
def floatVal (f : Fmt) (s pat : Nat) : Num :=
  let neg := pat.testBit (s - 1)
  let mag := pat % 2 ^ (s - 1)
  let e := mag / 2 ^ f.p
  let fr := mag % 2 ^ f.p
  if f.infPat = some mag then .inf neg
  else if f.maxPat < mag then .nan
  else if e = 0 then .fin neg fr (1 - (f.bias : Int) - f.p)
  else .fin neg (2 ^ f.p + fr) ((e : Int) - f.bias - f.p)

/-- The exact value of a pattern read as a type (R173, R175, R177). -/
def valueOf (t : Ty) (pat : Nat) : Num :=
  match fmtOf t with
  | some f => floatVal f t.bits pat
  | none =>
    if t = .ss8 then let v := ss8Int pat; .fin (decide (v < 0)) v.natAbs (-6)
    else Num.ofInt (intOf t.signed t.bits pat)

/-! Exact arithmetic. -/

def Num.neg : Num → Num
  | .nan => .nan
  | .inf n => .inf (!n)
  | .fin n m e => .fin (!n) m e

def Num.abs : Num → Num
  | .nan => .nan
  | .inf _ => .inf false
  | .fin _ m e => .fin false m e

def Num.isNan : Num → Bool
  | .nan => true
  | _ => false

def Num.isZero : Num → Bool
  | .fin _ m _ => m == 0
  | _ => false

/-- The exact product; 0 × ∞ is NaN. -/
def Num.mul : Num → Num → Num
  | .nan, _ | _, .nan => .nan
  | .inf a, .inf b => .inf (a != b)
  | .inf a, .fin b m _ => if m = 0 then .nan else .inf (a != b)
  | .fin a m _, .inf b => if m = 0 then .nan else .inf (a != b)
  | .fin a m e, .fin b n g => .fin (a != b) (m * n) (e + g)

/-- A finite value counted in units of 2^g, for g no greater than its exponent. -/
def unitsAt (neg : Bool) (m : Nat) (e g : Int) : Int :=
  let v : Int := m * 2 ^ (e - g).toNat
  if neg then -v else v

/-- The exact sum, with the sign R181 gives an exact zero under a rounding direction `down` (RDN); ∞ − ∞ is NaN. -/
def Num.add (down : Bool) : Num → Num → Num
  | .nan, _ | _, .nan => .nan
  | .inf a, .inf b => if a = b then .inf a else .nan
  | .inf a, .fin _ _ _ => .inf a
  | .fin _ _ _, .inf b => .inf b
  | .fin a m e, .fin b n g =>
    let lo := min e g
    let v := unitsAt a m e lo + unitsAt b n g lo
    if v = 0 then .fin (if m = 0 && n = 0 && a == b then a else down) 0 lo
    else .fin (decide (v < 0)) v.natAbs lo

/-- Order of two values that are not NaN; −0 equals +0. -/
def Num.cmp : Num → Num → Ordering
  | .inf a, .inf b => if a = b then .eq else if a then .lt else .gt
  | .inf a, _ => if a then .lt else .gt
  | _, .inf b => if b then .gt else .lt
  | .fin a m e, .fin b n g =>
    let lo := min e g
    compare (unitsAt a m e lo) (unitsAt b n g lo)
  | _, _ => .eq

/-- An operation makes NaN from operands that are not NaN (R184, R189). -/
def nvIf (ops : List Num) (x : Num) : Fl := flIf (x.isNan && !ops.any Num.isNan) fNV

/-! Round. -/

/-- floor(log2) of m · 2^e, for m not zero. -/
def floorLog2 (m : Nat) (e : Int) : Int := e + m.log2

/-- The magnitude m · 2^e (a little more when `st`) rounded to a count of units of 2^lq, and whether it changed (R181,
R183). `r` is the random word of SR. -/
def roundCount (md : Rnd) (r : BitVec 32) (neg : Bool) (m : Nat) (e : Int) (st : Bool) (lq : Int) : Nat × Bool :=
  if lq ≤ e then (m * 2 ^ (e - lq).toNat, st)
  else
    let k := (lq - e).toNat
    let lo := m / 2 ^ k
    let rem := m % 2 ^ k
    let half := 2 ^ (k - 1)
    if rem = 0 && !st then (lo, false)
    else
      let up := match md with
        | .rne => decide (half < rem) || (decide (rem = half) && (st || lo % 2 == 1))
        | .rna => decide (half ≤ rem)
        | .rtz => false
        | .rdn => neg
        | .rup => !neg
        | .sr _ => decide (r.toNat < rem * 2 ^ 32 / 2 ^ k)
      (if up then lo + 1 else lo, true)

/-- The pattern of a sign and a magnitude. -/
def signPat (s : Nat) (neg : Bool) (mag : Nat) : Nat := if neg then 2 ^ (s - 1) + mag else mag

/-- The canonical NaN of a format; a format without one gives zero (R176, R182). -/
def Fmt.nan (f : Fmt) : Nat := f.nanPat.getD 0

/-- A result past MAX, or an infinity `isInf` (R182). -/
def overflowF (f : Fmt) (s : Nat) (md : Rnd) (sat isInf neg : Bool) : Nat × Fl :=
  let base : Fl := flIf (!isInf) (fOF ||| fNX)
  match sat, f.infPat, f.nanPat with
  | true, _, _ => (signPat s neg f.maxPat, base ||| fSAT)
  | false, none, none => (signPat s neg f.maxPat, base ||| fSAT)
  | false, none, some n => (n, base ||| flIf isInf fNV)
  | false, some i, _ =>
    let big := match md with
      | .rne | .rna | .sr _ => true
      | .rtz => false
      | .rdn => neg
      | .rup => !neg
    (signPat s neg (if isInf || big then i else f.maxPat), base)

/-- Round of a finite magnitude into a floating format (R181, R182). -/
def roundFloat (f : Fmt) (s : Nat) (md : Rnd) (sat : Bool) (r : BitVec 32) (neg : Bool) (m : Nat) (e : Int) (st : Bool) :
    Nat × Fl :=
  if m = 0 then (signPat s neg 0, 0)
  else
    let emin : Int := 1 - f.bias
    let fl2 := floorLog2 m e
    let lq := max fl2 emin - f.p
    let (c, nx) := roundCount md r neg m e st lq
    let mag := (lq - (emin - f.p)).toNat * 2 ^ f.p + c
    let (pat, fl) := if f.maxPat < mag then overflowF f s md sat false neg else (signPat s neg mag, 0)
    (pat, fl ||| flIf nx fNX ||| flIf (nx && decide (fl2 < emin)) fUF)

/-- A value outside an integer range: its nearest bound (R182). -/
def clampInt (signed : Bool) (s : Nat) (sat : Bool) (v : Int) : Nat × Fl :=
  let lo : Int := if signed then -(2 ^ (s - 1)) else 0
  let hi : Int := if signed then 2 ^ (s - 1) - 1 else 2 ^ s - 1
  if v < lo then ((lo % 2 ^ s).toNat, if sat then fSAT else fNV)
  else if hi < v then ((hi % 2 ^ s).toNat, if sat then fSAT else fNV)
  else ((v % 2 ^ s).toNat, 0)

/-- Round of a finite magnitude to an integer type (R181 with q = 1, R182). -/
def roundInt (signed : Bool) (s : Nat) (md : Rnd) (sat : Bool) (r : BitVec 32) (neg : Bool) (m : Nat) (e : Int) (st : Bool) :
    Nat × Fl :=
  let (c, nx) := roundCount md r neg m e st 0
  let (pat, fl) := clampInt signed s sat (if neg then -(c : Int) else c)
  (pat, fl ||| flIf nx fNX)

/-- The magnitudes of SS8 values, in units of 2^-6, rising (R177). -/
def ss8Mags : List Nat :=
  [0, 1, 2, 3, 4, 5, 6, 7, 8, 9, 10, 12, 14, 15, 16, 17, 18, 20, 24, 28, 30, 31, 32, 33, 34, 36, 40, 48, 56, 60, 62, 63,
   64, 65, 66, 68, 72, 80, 96, 128]

/-- The smallest byte that encodes a value in units of 2^-6 (R178). -/
def ss8Enc (v : Int) : Nat := ((List.range 256).find? (fun b => ss8Int b == v)).getD 0

/-- Round to SS8 of a finite value (R178): V takes the place of the grid. -/
def roundSS8 (md : Rnd) (neg : Bool) (m : Nat) (e : Int) (st : Bool) : Nat × Fl :=
  let k := (-(e + 6)).toNat
  let x := m * 2 ^ (e + 6).toNat
  let sgn (v : Nat) : Int := if neg then -(v : Int) else v
  if 128 * 2 ^ k < x || (x = 128 * 2 ^ k && st) then (ss8Enc (sgn 128), fOF ||| fNX ||| fSAT)
  else
    let lo := (ss8Mags.filter (fun v => decide (v * 2 ^ k ≤ x))).getLastD 0
    if lo * 2 ^ k = x && !st then (ss8Enc (sgn lo), 0)
    else
      let hi := (ss8Mags.find? (fun v => decide (lo < v))).getD 128
      let twice := 2 * x
      let mid := (lo + hi) * 2 ^ k
      let up := match md with
        | .rne => decide (mid < twice) || (decide (twice = mid) && st)
        | .rna => decide (mid ≤ twice)
        | .rtz => false
        | .rdn => neg
        | .rup => !neg
        | .sr _ => false
      (ss8Enc (sgn (if up then hi else lo)), fNX)

/-- Round of a finite magnitude, m · 2^e or a little more when `st`, to a type. -/
def roundFin (t : Ty) (md : Rnd) (sat : Bool) (r : BitVec 32) (neg : Bool) (m : Nat) (e : Int) (st : Bool) : Nat × Fl :=
  match fmtOf t with
  | some f => roundFloat f t.bits md sat r neg m e st
  | none =>
    if t = .ss8 then roundSS8 md neg m e st
    else roundInt t.signed t.bits md sat r neg m e st

/-- Round(x, TY, mode) (R181, R182, R178): the pattern and the flags it sets. -/
def round (t : Ty) (md : Rnd) (sat : Bool) (r : BitVec 32) : Num → Nat × Fl
  | .fin neg m e => roundFin t md sat r neg m e false
  | .inf neg =>
    (match fmtOf t with
    | some f => overflowF f t.bits md sat true neg
    | none =>
      if t = .ss8 then (ss8Enc (if neg then -128 else 128), fOF ||| fSAT)
      else clampInt t.signed t.bits sat (if neg then -(2 ^ 70) else 2 ^ 70))
  | .nan =>
    (match fmtOf t with
    | some ⟨_, _, _, _, some n⟩ => (n, 0)
    | _ => (0, fNV))

/-- A quotient of naturals as a magnitude with 64 spare bits: (n ÷ d) · 2^e, floored, with whether anything is left. -/
def quot (n d : Nat) (e : Int) : Nat × Int × Bool :=
  let k := 64 + d.log2
  (n * 2 ^ k / d, e - k, n * 2 ^ k % d != 0)

/-! SC20 scales (R179, R180). -/

/-- The value of a scale: none when invalid, else m · 2^e with m zero for a zero scale (R179). -/
def sc20 (w : Nat) : Option (Nat × Int) :=
  let e := w / 4096 % 256
  if e = 255 then none
  else if e = 0 then some (0, 0)
  else some (4096 + w % 4096, (e : Int) - 127 - 12)

/-- x × σ (R180): the product and the flag of an invalid scale or of 0 × ∞. -/
def scaleMul (x : Num) (w : Nat) : Num × Fl :=
  match sc20 w with
  | none => (.nan, fNV)
  | some (m, e) => let y := x.mul (.fin false m e); (y, nvIf [x] y)

/-- Round(x ÷ σ, TY, mode) (R180, R200). DESIGN CHOICE (log 133): a NaN by a zero scale is a NaN, with no flag of the division. -/
def scaleDivRound (t : Ty) (md : Rnd) (sat : Bool) (r : BitVec 32) (x : Num) (w : Nat) : Nat × Fl :=
  let put (v : Num) (f : Fl) : Nat × Fl := let (p, g) := round t md sat r v; (p, f ||| g)
  match sc20 w, x with
  | none, _ => put .nan fNV
  | _, .nan => put .nan 0
  | some (0, _), .inf n => put (.inf n) fDZ
  | some (0, _), .fin n m _ => if m = 0 then put .nan fNV else put (.inf n) fDZ
  | some (_ + 1, _), .inf n => put (.inf n) 0
  | some (c + 1, g), .fin n m e =>
    let (q, e', st) := quot m (c + 1) (e - g)
    roundFin t md sat r n q e' st

/-! min and max (R184). -/

/-- a precedes b, with −0 below +0. -/
def Num.below (a b : Num) : Bool :=
  match a.cmp b with
  | .lt => true
  | .gt => false
  | .eq => (match a, b with
    | .fin na 0 _, .fin nb 0 _ => na && !nb
    | _, _ => false)

/-- The pattern of min (or max) of two floating patterns: the canonical NaN if either is NaN (R184). -/
def minMaxF (f : Fmt) (s : Nat) (max : Bool) (a b : Nat) : Nat :=
  let x := floatVal f s a
  let y := floatVal f s b
  if x.isNan || y.isNan then f.nan
  else if max then (if x.below y then b else a)
  else (if y.below x then b else a)

/-! WindowSum (R185). -/

/-- One term: an exact value with what step 1 needs to know of its operands. -/
inductive Term where
  | val (x : Num) (anyNan : Bool)
  | badScale
  deriving DecidableEq, Repr

def Term.isBad : Term → Bool
  | .badScale => true
  | _ => false

/-- The product of operands as a term. -/
def Term.prod (ops : List Num) : Term :=
  .val (ops.foldl Num.mul (.fin false 1 0)) (ops.any Num.isNan)

def Term.num : Term → Num
  | .val x _ => x
  | .badScale => .nan

def Term.hasNan : Term → Bool
  | .val _ b => b
  | .badScale => false

/-- e_max of step 2: the largest floor(log2) of a nonzero term. -/
def eMax : List Num → Option Int
  | [] => none
  | .fin _ m e :: t =>
    if m = 0 then eMax t
    else (match eMax t with
      | none => some (floorLog2 m e)
      | some x => some (max x (floorLog2 m e)))
  | _ :: t => eMax t

/-- A term counted in units of 2^u toward zero, and whether it changed (step 3). -/
def truncUnits (u : Int) : Num → Int × Bool
  | .fin n m e =>
    let (c, ch) := roundCount .rtz 0 n m e false u
    (if n then -(c : Int) else c, ch)
  | _ => (0, false)

/-- The finite part of WindowSum: steps 2 to 5. -/
def windowFin (acc : Nat) (terms : List Num) (md : Rnd) (sat : Bool) (r : BitVec 32) : Nat × Fl :=
  match eMax terms with
  | none => (acc, 0)
  | some em =>
    let u := em - 70
    let cs := terms.map (truncUnits u)
    let sum := cs.foldl (fun s c => s + c.1) 0
    let nx := flIf (cs.any (·.2)) fNX
    if sum = 0 then (acc, nx)
    else
      let x := Num.add (md == .rdn) (valueOf .f32 acc) (.fin (decide (sum < 0)) sum.natAbs u)
      let (p, f) := round .f32 md sat r x
      (p, f ||| nx)

/-- WindowSum(acc, terms, F32, mode) (R185): acc and the result are F32 patterns. -/
def windowSum (acc : Nat) (terms : List Term) (md : Rnd) (sat : Bool) (r : BitVec 32) : Nat × Fl :=
  let a := valueOf .f32 acc
  let xs := terms.map Term.num
  let hasInf (n : Bool) : Bool := (a :: xs).any (fun x => decide (x = .inf n))
  let nanP : Nat := 0x7FC00000
  if terms.any Term.isBad then (nanP, fNV)
  else if (a :: xs).any Num.isNan then (nanP, flIf (!(a.isNan || terms.any Term.hasNan)) fNV)
  else if hasInf false && hasInf true then (nanP, fNV)
  else if hasInf false then round .f32 md sat r (.inf false)
  else if hasInf true then round .f32 md sat r (.inf true)
  else windowFin acc xs md sat r

/-! Comparison (R151, R198). -/

/-- An ordering against a comparison code; `none` when a NaN takes part. -/
def condHolds (c : Cond) : Option Ordering → Bool
  | none => c == .ne || c == .uo
  | some o => (match c, o with
    | .eq, .eq | .ne, .lt | .ne, .gt | .lt, .lt | .le, .lt | .le, .eq | .gt, .gt | .ge, .gt | .ge, .eq => true
    | _, _ => false)

def Num.order (a b : Num) : Option Ordering := if a.isNan || b.isNan then none else some (a.cmp b)

/-! Special functions (R204): the exact value as a magnitude with spare bits and a mark that something is left. -/

/-- floor(sqrt n), one bit at a time from bit `k` down. -/
def isqrtFrom (n : Nat) : Nat → Nat → Nat
  | 0, acc => if (acc + 1) * (acc + 1) ≤ n then acc + 1 else acc
  | k + 1, acc =>
    let t := acc + 2 ^ (k + 1)
    isqrtFrom n k (if t * t ≤ n then t else acc)

def isqrt (n : Nat) : Nat := isqrtFrom n (n.log2 / 2 + 1) 0

/-- floor(ln 2 · 2^320). -/
def ln2x320 : Nat := 0xb17217f7d1cf79abc9e3b39803f2f6af40f343267298b62d8a0d175b8baafa2be7b876206debac98

/-- Terms of exp(y) at 300 fractional bits, from the k-th on: y^k ÷ k! and after it `n` more. -/
def expTail (y : Nat) : Nat → Nat → Nat → Nat
  | 0, _, t => t
  | n + 1, k, t => t + expTail y n (k + 1) (t * y / 2 ^ 300 / (k + 1))

/-- 2^f for a fraction f = n ÷ 2^160 in (0, 1): floored at 300 fractional bits. -/
def exp2Frac (n : Nat) : Nat := expTail (n * ln2x320 / 2 ^ 180) 80 0 (2 ^ 300)

/-- 2^x for finite x (R204): magnitude, exponent, remainder mark. Results past any format's range are cut at 2^±400. -/
def exp2Fin (neg : Bool) (m : Nat) (e : Int) : Nat × Int × Bool :=
  -- x as a count of units of 2^-160; every format's values are multiples of that
  if m = 0 then (1, 0, false)
  else if 9 ≤ floorLog2 m e then (1, if neg then -1024 else 1024, false)
  else
    let v := unitsAt neg m e (-160)
    let k := v / 2 ^ 160
    let n := (v % 2 ^ 160).toNat
    if n = 0 then (1, k, false) else (exp2Frac n / 2 ^ 200, k - 100, true)

/-- Binary digits of log2 of f = v ÷ 2^300 in [1, 2): `k` more digits after `acc`. -/
def log2Digits : Nat → Nat → Nat → Nat
  | 0, _, acc => acc
  | k + 1, v, acc =>
    let w := v * v / 2 ^ 300
    if 2 ^ 301 ≤ w then log2Digits k (w / 2) (2 * acc + 1) else log2Digits k w (2 * acc)

/-- log2 of m · 2^e for m not zero: sign, magnitude, exponent, remainder mark. DESIGN CHOICE (log 125): of 1.0 it is +0 in every
rounding mode, since the zero signs of R181 are those of operands, products and sums and R204 states none. -/
def log2Fin (m : Nat) (e : Int) : Bool × Nat × Int × Bool :=
  let k := floorLog2 m e
  if m = 2 ^ m.log2 then (decide (k < 0), k.natAbs, 0, false)
  else
    let fr := log2Digits 128 (m * 2 ^ (300 - m.log2)) 0
    if 0 ≤ k then (false, k.toNat * 2 ^ 128 + fr, -128, true)
    else (true, k.natAbs * 2 ^ 128 - fr - 1, -128, true)

/-- 1 ÷ √(m · 2^e) for m not zero: magnitude, exponent, remainder mark. -/
def rsqrtFin (m : Nat) (e : Int) : Nat × Int × Bool :=
  let (m', e') := if e % 2 = 0 then (m, e) else (2 * m, e - 1)
  let k := 80 + m'.log2
  let q := isqrt (2 ^ (2 * k) / m')
  (q, -(e' / 2) - k, q * q * m' != 2 ^ (2 * k))

/-- The functions of group 0x48. -/
inductive Special where
  | recip | rsqrt | exp2 | log2
  deriving DecidableEq, Repr

/-- Round(f(a), TY, mode) with the specials of R204. -/
def special (fn : Special) (t : Ty) (md : Rnd) (sat : Bool) (r : BitVec 32) (a : Num) : Nat × Fl :=
  let put (v : Num) (f : Fl) : Nat × Fl := let (p, g) := round t md sat r v; (p, f ||| g)
  match a with
  | .nan => put .nan 0
  | .inf neg =>
    (match fn with
    | .recip => put (.fin neg 0 0) 0
    | .rsqrt => if neg then put .nan fNV else put (.fin false 0 0) 0
    | .exp2 => if neg then put (.fin false 0 0) 0 else put (.inf false) 0
    | .log2 => if neg then put .nan fNV else put (.inf false) 0)
  | .fin neg m e =>
    (match fn with
    | .recip =>
      if m = 0 then put (.inf neg) fDZ
      else let (q, g, st) := quot 1 m (-e); roundFin t md sat r neg q g st
    | .rsqrt =>
      if m = 0 then put (.inf neg) fDZ
      else if neg then put .nan fNV
      else let (q, g, st) := rsqrtFin m e; roundFin t md sat r false q g st
    | .exp2 => let (q, g, st) := exp2Fin neg m e; roundFin t md sat r false q g st
    | .log2 =>
      if m = 0 then put (.inf true) fDZ
      else if neg then put .nan fNV
      else let (n, q, g, st) := log2Fin m e; roundFin t md sat r n q g st)

end Sys2Proof.Machine
end

