-- ==== Sys2Proof/Config.lean ====
section
/-! DEFINITION. Config.lean: what this implementation fixes (constants of the manual, and choices the log names), and
the free values: opaque constants without a body, which no proof can evaluate (log 13). -/
namespace Sys2Proof.Config

/-- Base of the scratchpad window (R242). -/
abbrev spBase : Nat := 0x0FFFFFFFFE000000
/-- First address past the scratchpad window (R242). -/
abbrev spEnd : Nat := 0x0FFFFFFFFE180000
/-- Job virtual address of the job control block (R35). -/
abbrev jcbBase : Nat := 0x0FFFFFFFFFFFE000
/-- Number of logical tiles (R1). -/
abbrev nTiles : Nat := 576
/-- Offset of a task's record in its frame (R19). -/
abbrev recOff : Nat := 0x17C0
/-- Size of a frame and of a workspace (R19, R131). -/
abbrev frameSize : Nat := 0x1800

/-- Bytes behind the 24 memory channels of a quadrant: its sixteenth of 576 GB, in whole 64 KiB pages (R2, R58). -/
abbrev quadBytes : Nat := 36 * 10 ^ 9 / 65536 * 65536

/-- The quadrant whose channels back a plain physical address. DESIGN CHOICE (log 14): the manual gives the total of HBM and
24 channels to each quadrant, not which addresses they back; quadrant q backs the q-th share. -/
def quadOfPa (pa : Nat) : Nat := pa / quadBytes

/-- The channels of a polder's quadrants back a plain address of their shares; a replicated one is backed below REPLG GiB of
its offset (R58, R241, R252, R255). -/
def backed (quads : List Nat) (replg pa : Nat) : Bool :=
  if pa < 2 ^ 51 then quads.contains (quadOfPa pa) else decide (pa - 2 ^ 51 < replg * 2 ^ 30)

/-- Free value (log 13): the way an L1 set gives up when it is full; R244 gives no replacement rule. -/
opaque l1Victim : Nat → Nat
/-- Free value (log 20): which line or entry another full cache of a tile or quadrant gives up (R107, R248, R256). -/
opaque cacheVictim : Nat → Nat
/-- Free value (log 20): whether a prefetched line has arrived before anything else happens (R107). -/
opaque prefetched : Nat → Bool
/-- Free value (log 10): the keyed check of a capability over key epoch, JOBID, TILE, RIGHTS and TENURE (R232). -/
opaque capTag : Nat → Nat → Nat → BitVec 6 → BitVec 32 → BitVec 16
/-- Free value (log 13): the promised completion CCY of a barge request (R275). -/
opaque promise : Nat → Word
/-- Free value (log 13): a sum of a physical performance counter (R353). -/
opaque perfCount : Nat → Word
/-- Free value (log 13): bytes the memory channels have moved for a job since its last flush, read or written (R351); the L2
that decides them is not in the model. -/
opaque hbmBytes : Nat → Nat
/-- Free value (log 15): the two 66-byte integers of an ECDSA signature over a digest (R352, R381, R385). -/
opaque ecdsaSign : BitVec 512 → Nat → BitVec 528 × BitVec 528
/-- Free value (log 15): whether a signature over a digest verifies under a public key (R386). -/
opaque ecdsaVerify : List Byte → BitVec 512 → List Byte → List Byte → Bool
/-- Free value (log 15): Sarrad's manufacturing public key (R381). -/
opaque firmwareKey : List Byte
/-- Free values (log 15): what the management core measures at boot (R382): its image, the supervisor firmware, the test
firmware, the sluices' training results. -/
opaque firmwareImage : List Byte
opaque supervisorImage : List Byte
opaque testImage : List Byte
opaque trainingReport : List Byte
/-- Free value (log 15): DEVID, SHA-512 of the device identity public key (R352). -/
opaque devid : BitVec 512
/-- Free value (log 58): what the device itself gives to a response of SPDM: nonces, times, sizes (R383). -/
opaque spdmResponse : List Byte → Nat → List Byte
/-- Free value (log 58): the certificate chain of slot 0 (R383). -/
opaque certChain : List Byte
/-- Free value (log 58): the DMTF type of the measurement a register holds (R383). -/
opaque spdmKind : Nat → BitVec 7
/-- Free value (log 108): whether the in-field test of a tile that falls due passes (R340). -/
opaque testPasses : Nat → Bool
/-- Free value (log 107): the old value of a scratchpad atomic whose task has left its tile, and the tile its job, before the close of the quantum. -/
opaque lostWord : Nat → BitVec 64

end Sys2Proof.Config
end

