-- ==== Sys2Proof/Machine/Mem.lean ====
section
/-! DEFINITION. Mem.lean: byte memory as a list of cells in one canonical form, maps keyed by numbers, little-endian
values (R7). An unlisted address reads as zero: package reset wipes every memory to zero (R386). -/
namespace Sys2Proof.Machine

/-- Byte memory: addresses strictly rising, no cell equal to zero, what an unlisted address reads as. -/
abbrev Memory := List Host.Cell

/-- What an unlisted address reads as (R386). -/
abbrev Memory.unlisted : Byte := 0

/-- Every address of `m` is above `lo`, addresses rise, no zero byte is listed. -/
def Memory.sortedFrom : Nat → Memory → Bool
  | _, [] => true
  | lo, (a, b) :: t => decide (lo ≤ a) && decide (b ≠ Memory.unlisted) && Memory.sortedFrom (a + 1) t

/-- The canonical form. -/
def Memory.wf (m : Memory) : Bool := Memory.sortedFrom 0 m

/-- One byte. -/
def Memory.get : Memory → Nat → Byte
  | [], _ => Memory.unlisted
  | (k, v) :: t, a => if k = a then v else Memory.get t a

/-- The cells that bytes laid from `a` upwards list. -/
def Memory.cells : Nat → List Byte → Memory
  | _, [] => []
  | a, b :: t => if b = Memory.unlisted then Memory.cells (a + 1) t else (a, b) :: Memory.cells (a + 1) t

/-- Bytes laid from `a` upwards; every other address keeps its byte. -/
def Memory.writeBytes (m : Memory) (a : Nat) (bs : List Byte) : Memory :=
  m.filter (fun c => decide (c.1 < a)) ++ (Memory.cells a bs ++ m.filter (fun c => decide (a + bs.length ≤ c.1)))

/-- One byte written. -/
def Memory.set (m : Memory) (a : Nat) (b : Byte) : Memory := m.writeBytes a [b]

/-- `n` bytes from `a` upwards. -/
def Memory.readBytes (m : Memory) (a : Nat) : Nat → List Byte
  | 0 => []
  | n + 1 => m.get a :: Memory.readBytes m (a + 1) n

/-- Bytes to a value, the first the least significant (R7). -/
def leVal : List Byte → Nat
  | [] => 0
  | b :: t => b.toNat + 256 * leVal t

/-- `n` bytes of a value, the least significant first (R7). -/
def leBytes : Nat → Nat → List Byte
  | 0, _ => []
  | n + 1, v => BitVec.ofNat 8 v :: leBytes n (v / 256)

/-- The cells of `m` whose address lies from `a` to `a + n - 1`: a value is read from these alone. -/
def Memory.near (m : Memory) (a n : Nat) : Memory := m.filter (fun c => decide (a ≤ c.1) && decide (c.1 < a + n))

def Memory.readLE (m : Memory) (a n : Nat) : Nat := leVal ((m.near a n).readBytes a n)

def Memory.writeLE (m : Memory) (a n v : Nat) : Memory := m.writeBytes a (leBytes n v)

/-- `n` bytes set to zero. -/
def Memory.zero (m : Memory) (a n : Nat) : Memory :=
  m.filter (fun c => decide (c.1 < a) || decide (a + n ≤ c.1))

/-- The low eight-byte value at `a`. -/
def Memory.word (m : Memory) (a : Nat) : Word := BitVec.ofNat 64 (m.readLE a 8)

/-- Maps keyed by numbers: each key once, in the order keys were first set. -/
abbrev AMap (α : Type) := List (Nat × α)

def AMap.get? {α : Type} : AMap α → Nat → Option α
  | [], _ => none
  | (k, v) :: t, a => if k = a then some v else AMap.get? t a

def AMap.set {α : Type} : AMap α → Nat → α → AMap α
  | [], a, x => [(a, x)]
  | (k, v) :: t, a, x => if k = a then (a, x) :: t else (k, v) :: AMap.set t a x

def AMap.erase {α : Type} (m : AMap α) (a : Nat) : AMap α := m.filter (fun e => decide (e.1 ≠ a))

def AMap.getD {α : Type} (m : AMap α) (a : Nat) (d : α) : α := (AMap.get? m a).getD d

/-- Sets of numbers: rising, no repeats. -/
abbrev NSet := List Nat

def NSet.insert (a : Nat) : NSet → NSet
  | [] => [a]
  | k :: t => if a < k then a :: k :: t else if a = k then k :: t else k :: NSet.insert a t

def NSet.erase (s : NSet) (a : Nat) : NSet := s.filter (fun k => decide (k ≠ a))

/-- Numbers `a`, `a + d`, …: `n` of them. -/
def upFrom (d : Nat) : Nat → Nat → List Nat
  | _, 0 => []
  | a, n + 1 => a :: upFrom d (a + d) n

/-- Units of `sz` bytes that the bytes [a, a + n) touch, each once. -/
def unitsOf (sz a n : Nat) : List Nat :=
  if n = 0 then [] else upFrom 1 (a / sz) ((a + n - 1) / sz + 1 - a / sz)

end Sys2Proof.Machine
end

