-- ==== Sys2Proof/Machine/State.lean ====
section
/-! DEFINITION. State.lean: everything the manual gives the machine, as plain data, and the state after package reset.
Where the manual counts or names a thing the field is a number or an inductive; bits stay bit vectors. Addresses in fields
are numbers. Physical memory is keyed by physical address for plain pages, by (site + 1) · 2^52 + address for the copy of a
die-hashed page (R252), where the site of a polder on a die is four times the polder's lowest quadrant, plus the die. -/
namespace Sys2Proof.Machine

/-- Why a step stops. -/
inductive Fault where
  /-- Raised by `exec` of a task instruction on a tile that runs no task. No step does this, since a step fetches only
  for a running task: safe. -/
  | noTask
  deriving DecidableEq, Repr

/-- What the model does not give a meaning. -/
inductive Refusal where
  /-- Raised by an arm of `exec` whose instruction has no meaning yet: safe. -/
  | notModelled (mnemonic : String)
  deriving DecidableEq, Repr

/-! Tasks. -/

/-- Lineage(t) of R22: LIN, then DEPTH. -/
structure TKey where
  lin : BitVec 128
  depth : Nat
  deriving DecidableEq, Repr

/-- The fields of a continuation record (R13) but CHK, which is computed when a record is written and checked when one
is read (R14). -/
structure Record where
  cp : Word
  fp : Word
  jc : BitVec 32 := 0
  live : BitVec 16 := 0
  stage : BitVec 16 := 0
  lin : BitVec 128
  gang : BitVec 32
  flags : BitVec 32
  parent : Word := 0
  seq : BitVec 32 := 0
  deriving DecidableEq, Repr

/-- What a stalled instruction waits for (R163, R324). -/
inductive StallKind where
  | staging | fifo | channel | matrixQueue | commit | head | swap | barrier (k : Fin 8) | spawnFull | verdict | promise | barge
  | sleep (tag : Nat) | atomic | matrixWait | taskEnd | frame
  deriving DecidableEq, Repr

structure Stall where
  kind : StallKind
  since : Nat
  deriving DecidableEq, Repr

/-- Sources of pre-emption, the highest of R325 first. -/
inductive PreSrc where
  | territory | placement | test | upcall | dispatch | quantum
  deriving DecidableEq, Repr

/-- A request for pre-emption and the cycle it was made (R163, R324). -/
structure PreReq where
  src : PreSrc
  since : Nat
  /-- the gangs dispatched here, whose roots the record goes behind (R47) -/
  gangs : NSet := []
  deriving DecidableEq, Repr

/-- A fault a task raises when it resumes (R259): cause and TVAL. -/
structure PendFault where
  cause : Nat
  tval : Word
  deriving DecidableEq, Repr

/-- What the firmware of a tile in supervisor mode is about (R323, R325, R328). -/
inductive Firm where
  | save | restore
  deriving DecidableEq, Repr

/-- A running task: the record its tile holds, PC, mode, and what the next instruction boundary must look at. -/
structure Run where
  rcd : Record
  job : Nat
  pc : Word
  /-- supervisor mode (R323) -/
  sup : Bool := false
  /-- the firmware routine the tile has entered -/
  firm : Option Firm := none
  /-- the TMASK check applies to the next fetch: first run of a record with SEQ 0, or entry at TRAPVEC (R89) -/
  entry : Bool := false
  /-- the next fetch is the one of an entry at TRAPVEC -/
  vec : Bool := false
  pend : Option PendFault := none
  stall : Option Stall := none
  reqs : List PreReq := []
  /-- cycles counted under R26 -/
  contended : Nat := 0
  /-- an mcmd verdict not yet taken (R235): 0 accepted, else the reason -/
  verdict : Option Nat := none
  /-- the element of the stream that v(B) of the mcmd sent is bound to, popped once the command is accepted (R142, R235) -/
  sent : Option VWord := none
  /-- the mcmd or mswap that has been issued and waits for its end, and the tile its capability names: it is not fetched, and its
  operands are not read, again (R235, R237) -/
  begun : Option Instr := none
  peer : Nat := 0
  /-- an mswap that has ended: true when the exchange was made, false when the lengths differed (R237) -/
  swapped : Option Bool := none
  deriving DecidableEq, Repr

/-- The matrix state of a tile: tile registers, accumulators and TCFG as bytes, at the offsets of the save band (R326), and its
poisoned units of 8 bytes (R239). -/
structure MatState where
  bytes : Memory := []
  bad : NSet := []
  deriving DecidableEq, Repr

/-- A root of a CONCURRENT gang that waits on its own tile (R160): its record as written back, the first byte of its workspace, and its
matrix state once another task has touched the unit. Where the record stands is for the queues to say. -/
structure RootWait where
  rcd : Record
  job : Nat
  base : Nat
  mat : Option MatState := none
  matClean : Bool := true
  deriving DecidableEq, Repr

/-- Why a record is suspended at its record address (R16). -/
inductive SuspWhy where
  | join
  | until (ccy : Nat)
  /-- a translation fault, by the function and the number of its record (R258) -/
  | fault (fn num : Nat)
  deriving DecidableEq, Repr

structure Susp where
  addr : Nat
  why : SuspWhy
  /-- SEQ as hardware wrote it there (R258, R408) -/
  seq : Nat := 0
  deriving DecidableEq, Repr

/-- A pending fault that travels with a record, and whether the record resumes at entry to TRAPVEC (R259, R322). -/
structure Carry where
  addr : Nat
  pend : Option PendFault
  entry : Bool
  deriving DecidableEq, Repr

/-! Memory. -/

/-- One L1 line: 32 bytes of the home unit `key` · 32, a dirty bit for each byte, the residency count (0 none, R247) and
the poison of each 8-byte unit (R244, R260). -/
structure L1Line where
  key : Nat
  data : BitVec 256
  dirty : BitVec 32 := 0
  resid : Nat := 0
  poison : BitVec 4 := 0
  deriving DecidableEq, Repr

/-- A line of code or constants: 64 bytes of physical line `key` · 64, and, in the constant cache, the poison of each 8-byte unit
(R260). -/
structure CLine where
  key : Nat
  data : BitVec 512
  poison : BitVec 8 := 0
  deriving DecidableEq, Repr

/-- A completed translation of a 64 KiB page of a job (R254, R256): physical page, rights of both stages, NL1, SLP, PSLICE,
and the intermediate page, by which stage-2 invalidations find it. -/
structure Xlat where
  job : Nat
  vpage : Nat
  ipage : Nat
  ppage : Nat
  w1 : Bool
  w2 : Bool
  x1 : Bool
  x2 : Bool
  nl1 : Bool
  slp : Nat
  pslice : Nat
  /-- intermediate pages of the stage-1 tables the walk read (R255, R257) -/
  tables : List Nat := []
  deriving DecidableEq, Repr

/-- A contribution of red (R312): its source gang (0xFFFF_FFFF for the border context), its key, and one step of R187. -/
structure Contrib where
  job : Nat
  gang : Nat
  key : TKey
  ord : Nat
  addr : Nat
  op : RedOp
  ty : Ty
  md : Rnd
  val : Nat
  deriving DecidableEq, Repr

/-- What a staged entry does when it applies (R298). -/
inductive Eff where
  | store (unit : Nat) (mask : BitVec 32) (data : BitVec 256)
  | atomic (addr : Nat) (op : AmoOp) (ty : Ty) (val cmp : Nat)
  | red (addr : Nat) (op : RedOp) (ty : Ty) (md : Rnd) (val : Nat)
  | launch (stream : Nat) (cmd : List Byte)
  deriving DecidableEq, Repr

/-- A staged entry (R298): key, effect, virtual address for the digest, slice and set that hold it, whether it lies in
the head overflow (R299), its superstep (R317), its batch once sealed (R301), the site of its writer (R252), and the translations that
its accesses used (R257). -/
structure Entry where
  key : TKey
  ord : Nat
  eff : Eff
  va : Nat
  slice : Nat
  set : Nat
  ovf : Bool
  step : Nat
  batch : Option Nat := none
  site : Nat := 0
  uses : List Xlat := []
  deriving DecidableEq, Repr

/-- A sealed batch; held until the next sstep or the retirement under R304. -/
structure Batch where
  id : Nat
  held : Bool
  deriving DecidableEq, Repr

/-- A flit on its way, delivered at its end, or on its way with what it carries void (R368, R337). -/
inductive FlitAt where
  | sent | here | void
  deriving DecidableEq, Repr

/-- A sluice that a flit crosses, its direction, and the flit's sequence number there (R365, R368). -/
structure Hop where
  sluice : Nat
  dir : Nat
  seq : BitVec 32
  deriving DecidableEq, Repr

/-- A write to a die-hashed page on its way to the site `dest`; `origin` is a die, or 4 for the host (R252, R293); `bad` the units of
8 bytes that it leaves poisoned (R260); `hops` the sluices it crosses, as a flit of class 2, and whether it has crossed them (R294,
R368). -/
structure DhWrite where
  origin : Nat
  dest : Nat
  clock : List (BitVec 32)
  addr : Nat
  bytes : List Byte
  bad : NSet := []
  hops : List Hop := []
  at_ : FlitAt := .sent
  deriving DecidableEq, Repr

/-- A write applied to a byte of a die copy that no later one has replaced: where it comes from, its clock, its value
(R293). -/
structure DhLast where
  origin : Nat
  clock : List (BitVec 32)
  val : Byte
  deriving DecidableEq, Repr

/-! Gangs. -/

/-- A launch descriptor (R28). -/
structure Desc where
  entry : Word
  ntask : Nat
  cls : Nat
  stream : Nat
  prio : Nat
  shape : Nat
  shw : Nat
  shh : Nat
  nstage : Nat
  nfoot : Nat
  footptr : Nat
  dsm : Bool
  digest : Nat
  qlog2 : Nat
  bars : BitVec 8
  snapb : Nat
  arg0 : Word
  arg1 : Word
  frameb : Nat
  afttk : Nat
  afts : Nat
  aftv : Bool
  deriving DecidableEq, Repr

/-- Kinds of footprint entries (R31). -/
inductive FKind where
  | inp | out | inout | priv
  deriving DecidableEq, Repr

structure Foot where
  base : Nat
  len : Nat
  kind : FKind
  deriving DecidableEq, Repr

/-- A region of code or constants: base and length (R35). -/
structure Region where
  base : Nat
  len : Nat
  deriving DecidableEq, Repr

/-- A returning atomic of a DSM gang waiting for the close of its quantum (R54): the tile it was issued on, and the offset of its
address in the task's workspace where it lies there. -/
structure PendAmo where
  op : AmoOp
  ty : Ty
  va : Nat
  val : Nat
  cmp : Nat
  tile : Nat
  rel : Option Nat
  /-- it has met a full set at the close of the quantum and waits for its gang to be head (R54, R299) -/
  held : Bool := false
  deriving DecidableEq, Repr

/-- A live task of a gang, with its marks under R53: it has ended its part, it is blocked, it has executed done (its
decrement of the parent is still owed). -/
structure TaskInfo where
  key : TKey
  addr : Nat
  root : Option Nat := none
  ended : Bool := false
  blocked : Bool := false
  owes : Option Nat := none
  amo : Option PendAmo := none
  /-- the old value its atomic got at the close of the quantum, not yet in its register (R54) -/
  got : Option Nat := none
  /-- the amof that waits for it: it is not fetched, and its predicate is not read, again (R54, log 138) -/
  amof : Option Instr := none
  /-- under DSM its join has been issued and is decided at the close of the quantum (R54) -/
  joining : Bool := false
  /-- QCOUNT restarts when the task is next taken by a tile (R53) -/
  fresh : Bool := false
  /-- QCOUNT of a task that has yielded in the quantum (R53, R134) -/
  qkept : Option Nat := none
  /-- a wait or sstep of this barrier has been issued and has not completed (R53) -/
  waits : Option (Fin 8) := none
  /-- returning atomics performed, while the gang is measured (R354) -/
  natom : Nat := 0
  deriving DecidableEq, Repr

/-- Barrier state of one root for one id (R315), with whether it arrived by sstep (R317). -/
structure Barrier where
  root : Nat
  k : Fin 8
  gen : BitVec 32 := 0
  arr : Bool := false
  byStep : Bool := false
  deriving DecidableEq, Repr

/-- The journal of one root (R331): the scratchpad and matrix state at the start of the superstep, what has been written
since, where the root resumes, its QCOUNT. Matrix registers are numbered 0 to 7 tiles, 8 and 9 accumulators, 10 to 17
TCFG. -/
structure Journal where
  root : Nat
  sp : Memory
  mat : MatState
  units : NSet
  mregs : NSet
  pc : Word
  /-- poisoned units of its scratchpad when the superstep began -/
  poison : NSet := []
  /-- the returning atomics its task had performed (R354) -/
  natom : Nat := 0
  deriving DecidableEq, Repr

/-- The state of one root pre-empted with its gang (R326 to R328): its whole scratchpad and its matrix state. -/
structure RootSave where
  addr : Nat
  sp : Memory
  mat : MatState
  /-- poisoned units of the scratchpad -/
  poison : NSet
  /-- the root waited on its tile -/
  wait : Option RootWait := none
  deriving DecidableEq, Repr

/-- Where a gang stands (R342, R335). -/
inductive GPhase where
  | waiting | running | retired | committed | voided
  deriving DecidableEq, Repr

/-- A replay measurement (R353 to R355). -/
structure Meas where
  events : List Nat
  wsmax : Nat
  result : Nat
  fn : Nat
  pass : Nat
  passes : Nat
  /-- pages of the write set with their bytes before the first write -/
  pages : List (Nat × Memory)
  /-- the job-written area of the control block before the first write to it (log 143) -/
  jcb : Option (List Byte) := none
  log : List (TKey × Nat × Nat)
  /-- tiles that have run a task of the gang in the pass, and what each had counted when it first did -/
  tiles : NSet := []
  base : AMap (AMap Nat) := []
  counts : List Word
  mismatch : Bool
  logfull : Bool
  wsfull : Bool
  deriving DecidableEq, Repr

structure Gang where
  desc : Desc
  foot : List Foot
  code : List Region
  consts : List Region
  stream : Nat
  ticket : Nat
  /-- the opening of its own stream that gave its ticket (R43) -/
  opening : Nat := 0
  /-- the opening of stream AFTS that an AFTV wait is bound to (R44), and whether that wait is over -/
  aftEpoch : Nat := 0
  aftDone : Bool := false
  /-- launches the job had accepted before this one (R24, R34) -/
  born : Nat := 0
  ctag : Nat
  stat : Nat
  /-- instance and node number of a graph node (R49), and whether its completion event has been sent (R52) -/
  node : Option (Nat × Nat) := none
  nodeSent : Bool := false
  /-- a gdone waits for this batch before it sends the completion event (R172) -/
  nodeBatch : Option Nat := none
  phase : GPhase := .waiting
  readyAt : Option Nat := none
  dispatched : Bool := false
  /-- AGE at its first dispatch, kept from then on (R45) -/
  age : Option Nat := none
  tasks : List TaskInfo := []
  /-- ended tasks with children outstanding: record address and JC (R20, log 60) -/
  outlived : List (Nat × Nat) := []
  /-- roots that have executed done in the current superstep, with their records (R333 step 6) -/
  doneRoots : List (TaskInfo × Record) := []
  ord : Nat := 0
  entries : List Entry := []
  batches : List Batch := []
  nbatch : Nat := 0
  /-- entries that have applied, in the order they applied (R346) -/
  applied : List Entry := []
  quantum : Nat := 0
  /-- no task has begun the current quantum of a DSM gang: every live one is blocked (R53, log 107) -/
  dormant : Bool := false
  step : Nat := 0
  /-- the superstep may not be rolled back: re-execution, fork, atomic outside, other task (R332) -/
  norestore : Bool := false
  rolls : Nat := 0
  /-- an error consumed while the gang was off its tiles: the superstep is rolled back at its re-placement (R333) -/
  rollDue : Bool := false
  journals : List Journal := []
  /-- barrier state, completed generations and quantum index at the start of the superstep (R331) -/
  jbars : List Barrier := []
  jgens : List (BitVec 32) := List.replicate 8 0
  jquantum : Nat := 0
  bars : List Barrier := []
  /-- generations completed of each barrier id, modulo 2^32 (R315) -/
  gens : List (BitVec 32) := List.replicate 8 0
  /-- tiles of the roots while the gang is placed (R72) -/
  placed : List Nat := []
  /-- 0 not being placed; 1 its tiles are being freed; 2 its roots are becoming resident (R72) -/
  placing : Nat := 0
  /-- records evicted from its tiles, for which a place is still to be found (R72) -/
  ousted : List Record := []
  saves : List RootSave := []
  /-- the gang is being pre-empted as a whole, or waits to be placed again (R327) -/
  out : Bool := false
  /-- the requests made of the whole gang (R327) -/
  stop : List PreReq := []
  /-- its final status once it is voided (R42) -/
  final : Option Nat := none
  digest : BitVec 128 := 0
  verified : Bool := false
  /-- the gang runs again serialised, and the record address of the task that issues (R350) -/
  reexec : Bool := false
  issuer : Option Nat := none
  /-- marked by a failed test before it committed (R340) -/
  tainted : Bool := false
  /-- multiply-accumulates retired in the current superstep, for REPMAC (R351) -/
  macs : Nat := 0
  meas : Option Meas := none
  deriving DecidableEq, Repr

/-! Barge engines. -/

/-- One destination of a request: a tile's scratchpad or memory, first byte, length, watermark (R278). -/
structure Channel where
  tile : Nat
  dst : Nat
  len : Nat
  wm : Nat
  deriving DecidableEq, Repr

/-- A barge request (R273 to R285), keyed by its task's record address. -/
structure Barge where
  id : Nat
  job : Nat
  gang : Nat
  key : TKey
  task : Nat
  tile : Nat
  tag : Nat
  /-- order of the bgreq among the task's staged entries (R281) -/
  ord : Nat
  step : Nat
  ordered : Bool
  mcast : Bool
  len : Nat
  rowlen : Nat
  src : Nat
  dst : Nat
  sstr : Nat
  clen : Nat
  ostr : Nat
  chans : List Channel
  dreg : WReg
  accepted : Bool := false
  promise : Word := 0
  frozen : Option Nat := none
  /-- a bgsleep or bgwm of its tag has raised the BARGE_FAULT of the frozen request (R284) -/
  observed : Bool := false
  /-- stalls that have raised it: record address of the task, PC -/
  seen : List (Nat × Nat) := []
  /-- source units as they were before the request wrote over them: address and bytes (R279) -/
  kept : List (Nat × List Byte) := []
  /-- its engine waits until the gang is its stream's head (R281, R299) -/
  parked : Bool := false
  failed : Option Nat := none
  deriving DecidableEq, Repr

/-! Tiles. -/

/-- Who owns a tile (R61). -/
inductive Owner where
  | unowned
  | job (j : Nat)
  | transit (j : Nat)
  | dead
  deriving DecidableEq, Repr

/-- The move of a tile (R70, R78): the claiming job and its claiming tile; none for a discarded component or a destroyed
job, whose tile becomes unowned. -/
structure Cession where
  taker : Option (Nat × Nat)
  start : Nat
  wiping : Option Nat := none
  /-- tile that received the evicted records (R71) -/
  heir : Option Nat := none
  deriving DecidableEq, Repr

/-- A task saved by the pre-emption routine, before its copy-out (R325). -/
structure Saved where
  rcd : Record
  job : Nat
  req : PreReq
  mat : MatState
  matClean : Bool
  pend : Option PendFault
  entry : Bool
  deriving DecidableEq, Repr

/-- An operation in the matrix queue (R223): the record address of the sender of a remote one. -/
structure MatOp where
  sender : Option Nat
  deriving DecidableEq, Repr

/-- A command message on its way (R234): target capability, word, OP0, OP1. -/
structure MMsg where
  cap : Word
  w : IWord
  op0 : Word
  op1 : Word
  /-- bits [127:96] of the command vector are not zero -/
  bad : Bool := false
  deriving DecidableEq, Repr

/-- An mswap waiting for its partner (R237). -/
structure MSwap where
  partner : Nat
  send : Nat
  recv : Nat
  len : Nat
  deriving DecidableEq, Repr

/-- Tickets logged for gangs that ran here since the last passing test: one, or a merged range (R340). -/
structure Taint where
  job : Nat
  stream : Nat
  lo : Nat
  hi : Nat
  deriving DecidableEq, Repr

structure Tile where
  owner : Owner := .unowned
  tenure : BitVec 32 := 0
  pres : BitVec 16 := 0
  strip : BitVec 16 := 0
  idle : Nat := 0
  unrestricted : Bool := false
  wp : Word := 0
  sepc : Word := 0
  sstat : Word := 0
  sp : Memory := []
  spPoison : NSet := []
  run : Option Run := none
  root : Option RootWait := none
  deque : List Record := []
  l1 : List L1Line := []
  slots : List Contrib := []
  icache : List CLine := []
  fbuf : List CLine := []
  ccache : List CLine := []
  tlb : List Xlat := []
  mat : MatState := {}
  matClean : Bool := true
  /-- the command queue entry of the operation that next enters the queue has an uncorrectable error (R239) -/
  mqBad : Bool := false
  mq : List MatOp := []
  fifo : List Nat := []
  msg : Option MMsg := none
  swap : Option MSwap := none
  saved : Option Saved := none
  /-- scratchpad units of 256 bytes and matrix registers written in the superstep, while the tile's root journals -/
  journaling : Bool := false
  units : NSet := []
  mregs : NSet := []
  taint : List Taint := []
  /-- an in-field test waits for the tile to be free; whether it will pass (R340) -/
  testing : Option Bool := none
  /-- the cycle of its last test (R340) -/
  tested : Nat := 0
  /-- metering sums not yet added to the job control block (R351) -/
  meter : AMap Nat := []
  /-- the model's own, for measurements (R353): what the same counters, and at 100 + its code an event, have counted since package
  reset -/
  total : AMap Nat := []
  cess : Option Cession := none
  /-- marked dead, its territory effect due at the end of the phase (R78) -/
  dying : Bool := false
  deriving DecidableEq, Repr

/-! Jobs, streams, graphs. -/

/-- A command at a port: its 64 bytes, and whether a task's commit delivered it (R44). -/
structure Cmd where
  bytes : List Byte
  fromTask : Bool := false
  deriving DecidableEq, Repr

/-- A stream and its two ports (R38, R39, R357). -/
structure Stream where
  opened : Bool := false
  tail : Nat := 0
  head : Nat := 1
  badwr : BitVec 32 := 0
  queue : List Cmd := []
  overflow : List Cmd := []
  cqueue : List Cmd := []
  /-- containment has begun and OPEN is not yet cleared (R335) -/
  containing : Bool := false
  /-- openings so far (R44) -/
  epoch : Nat := 0
  /-- tickets of collectives that ended FAILED in this opening (R44, R380) -/
  lost : NSet := []
  deriving DecidableEq, Repr

structure GNode where
  gang : Nat
  stream : Nat
  ticket : Nat
  succs : List Nat
  count : Nat
  /-- final status once the node has ended -/
  ended : Option Nat := none
  deriving DecidableEq, Repr

/-- A graph instance (R49 to R52). -/
structure Graph where
  id : Nat
  template : Nat
  ctag : Nat
  stat : Nat
  nodes : List GNode
  deriving DecidableEq, Repr

/-- A collective of a rank (R377 to R380). -/
structure Coll where
  stream : Nat
  ticket : Nat
  cmd : List Byte
  group : Nat
  /-- its number among the collectives the rank has issued on the group (R378) -/
  k : Nat := 1
  started : Bool := false
  own : List Word := []
  /-- values of the children's subtrees that have arrived -/
  subs : List (Nat × List Word) := []
  result : Option (List Word) := none
  acks : NSet := []
  announced : Bool := false
  failed : Bool := false
  deriving DecidableEq, Repr

/-- A frame of the handler ring in use (R76), with the regions of its task (R409) and the values its registers start
with (R75). -/
structure Upcall where
  frame : Nat
  addr : Nat
  args : List Word
  code : List Region
  consts : List Region
  deriving DecidableEq, Repr

/-- A record on the pending list (R17). -/
structure PendRec where
  addr : Nat
  front : Bool
  /-- SEQ as hardware wrote it there (R258, R408) -/
  seq : Nat := 0
  deriving DecidableEq, Repr

/-- Where the 64 bytes of a record of a queue stand: at a place of job memory, or, read from there, in a deque (R407, log 30). -/
inductive RecPlace where
  | mem (va : Nat)
  | hard (bs : List Byte)
  deriving DecidableEq, Repr

/-- A record whose write at its record address, on its way to the pending list, waits for a reply (R17, R408). -/
structure Unwritten where
  rcd : Record
  front : Bool
  deriving DecidableEq, Repr

/-- A territory divided by a dead tile: the tile and the discarded tiles (R78). -/
structure Split where
  dead : Nat
  gone : List Nat
  deriving DecidableEq, Repr

structure Job where
  polder : Nat
  jcbpa : Nat
  s2root : Nat
  s1root : Nat := 0
  /-- roots written and not yet in force (R360) -/
  s1new : Nat := 0
  s2new : Nat := 0
  readyQ : Nat := 0
  readyQN : Nat := 0
  spillB : Nat := 0
  spillN : Nat := 0
  dkey : BitVec 128 := 0
  dkeylo : Word := 0
  streams : AMap Stream := []
  launches : Nat := 0
  gangs : AMap Gang := []
  graphs : List Graph := []
  ngraph : Nat := 0
  colls : List Coll := []
  ready : List Record := []
  pending : List PendRec := []
  unwritten : List Unwritten := []
  /-- by record address: where a record of the ready queue or of a spill share stands in job memory, or the bytes that stood there
  when it moved into the hardware of the deque (log 30) -/
  images : AMap RecPlace := []
  susp : List Susp := []
  carry : List Carry := []
  /-- record addresses no tile takes, since their frames wait for a reply (R408) -/
  blocked : NSet := []
  /-- matrix state of pre-empted tasks in the save pool, by record address (R326) -/
  pool : List (Nat × MatState) := []
  upcalls : List Upcall := []
  /-- a change was not reported: the last tile changed (R76) -/
  missed : Option Nat := none
  /-- order of contributions of the border context (R312) -/
  border : Nat := 0
  /-- waits for a seed (R62) -/
  unseeded : Bool := true
  /-- splits whose discarded tiles are still to become unowned (R78), and records dealt so far among the kept tiles -/
  splits : List Split := []
  dealt : Nat := 0
  /-- FLOOR, CEIL and WEIGHT in force since the start of the border round (R36) -/
  floor : Nat := 0
  ceil : Nat := 576
  weight : Nat := 1
  errs : AMap Nat := []
  /-- counters as at the last flush, and TGEN, GAINS, LOSSES, REFUSED (R338) -/
  copy : AMap Nat := []
  /-- the last CODE_DIGEST and the regions it covers (R384) -/
  codeDigest : BitVec 512 := 0
  codeRegs : List Region := []
  rseq : Nat := 0
  fseq : Nat := 0
  /-- the cycle of the last flush of its local sums (R351) -/
  flushed : Nat := 0
  /-- JOB_DESTROY has begun: the function whose mailbox waits for it (R364) -/
  destroying : Bool := false
  deriving DecidableEq, Repr

/-- A polder (R58) with its configuration registers as in force and as written, and its dispatcher (R46). -/
structure Polder where
  qx0 : Nat
  qx1 : Nat
  qy0 : Nat
  qy1 : Nat
  bordercfg : BitVec 32 := 0x20000
  borderNew : BitVec 32 := 0x20000
  memcfg : Word := 0x2401
  memNew : Word := 0x2401
  /-- per level: the job at the position and its selections in a row -/
  rot : AMap (Nat × Nat) := []
  lastSel : Nat := 0
  /-- a selected CONCURRENT gang that cannot be placed yet, by job (R47, R73) -/
  waitPlace : List (Nat × Nat) := []
  errs : AMap Nat := []
  deriving DecidableEq, Repr

/-! Functions and management. -/

/-- What a fault record awaits a reply for (R259, R284, R408). -/
inductive AwaitFor where
  | task (job addr : Nat)
  | barge (id : Nat)
  | frame (job addr tile : Nat)
  deriving DecidableEq, Repr

structure Await where
  num : Nat
  target : AwaitFor
  kind : Nat
  va : Nat
  ia : Nat
  deriving DecidableEq, Repr

/-- A pending invalidation (R360). -/
structure Inval where
  job : Option Nat
  all : Bool
  addr : Nat
  len : Nat
  deriving DecidableEq, Repr

/-- A function's fault queue, invalidation registers, mailbox and MSI-X vectors (R356 to R361). -/
structure Fn where
  fqbase : Nat := 0
  fqsize : Nat := 0
  fqhead : Nat := 0
  fqtail : Nat := 0
  /-- records waiting for space, in order -/
  held : List (List Byte) := []
  awaits : List Await := []
  invaddr : Word := 0
  invlen : Word := 0
  invdone : BitVec 32 := 0
  invs : List Inval := []
  /-- writes of INVADDR, INVLEN and INVCMD held in the host sluice behind an INVCMD: register offset and value (R360) -/
  invHeld : List (Nat × Word) := []
  /-- system address of the command block being served -/
  mbreq : Option Nat := none
  mbdone : BitVec 32 := 0
  /-- vectors signalled, oldest first -/
  msix : List Nat := []
  deriving DecidableEq, Repr

/-- A module of a sluice (R369): lanes moved onto repair lanes, the half it does without when it runs at 32 lanes, whether it
is off. -/
structure Lanes where
  moved : NSet := []
  half : Option Nat := none
  off : Bool := false
  deriving DecidableEq, Repr

/-- The registers of a sluice (R366) and what its window started with. -/
structure Sluice where
  rsel : Nat := 0
  cur : Nat := 0
  train : Bool := false
  lanes : Nat
  replays : Nat := 0
  crcerr : Nat := 0
  repaired : Nat := 0
  halved : Nat := 0
  off : Nat := 0
  replim : Nat := 4096
  crclim : Nat := 1024
  win : Nat := 0
  winReplays : Nat := 0
  winCrc : Nat := 0
  modules : List Lanes := []
  /-- sequence numbers of the flits sent and delivered, of each traffic class in each direction: class + 4 · direction (R368) -/
  sent : List (BitVec 32) := List.replicate 8 0
  got : List (BitVec 32) := List.replicate 8 0
  deriving DecidableEq, Repr

/-- A collective group: local job and rank, fabric address and DEVID of every rank (R376); a table that replaces it once no
collective is in flight, and messages that came before their collective (log 44). -/
structure Group where
  num : Nat
  job : Nat
  rank : Nat
  table : List (Nat × BitVec 512)
  next : Option (Nat × Nat × List (Nat × BitVec 512)) := none
  /-- collectives the local rank has issued under the table -/
  issued : Nat := 0
  early : List CollPost := []
  /-- a package of the table has been declared failed (R373, R380) -/
  lost : Bool := false
  deriving DecidableEq, Repr

/-- The last moments the periodic work ran, in its own period (R63, R65, R373). -/
structure Timers where
  pres : Nat := 0
  phase : Nat := 0
  beat : Nat := 0
  deriving DecidableEq, Repr

/-- What happens next (log 1): an event from outside, a named tile's turn, or one idle cycle. -/
inductive Turn where
  | event (i : Instr)
  | run (tile : Nat)
  | tick
  deriving DecidableEq, Repr

structure State where
  ccy : Word
  /-- the model's own: turns to take before the machine chooses for itself (log 1) -/
  inputs : List Turn
  /-- the model's own: the tile whose turn it is (log 1) -/
  cur : Nat
  /-- the model's own: free values drawn so far (log 13) -/
  draws : Nat
  timers : Timers
  disc : List Nat
  mem : Memory
  poison : NSet
  host : Memory
  /-- bytes host reads have returned, newest first -/
  hostReads : List (List Byte)
  /-- ranges of host addresses, as base and length, that answer no read (R363, log 3) -/
  hostHoles : List (Nat × Nat)
  pend : List Contrib
  dhq : List DhWrite
  /-- by site: the writes of each origin it has applied -/
  dhClock : AMap (List (BitVec 32))
  /-- by byte key: the concurrent writes it last took -/
  dhLast : AMap (List DhLast)
  /-- what ldc reads memory as: at the last event that emptied the constant cache of a tile, and of all tiles of a polder
  (R110, R248, R268) -/
  coldTile : AMap Memory
  coldPolder : AMap Memory
  /-- translation entries of the quadrants (R256) -/
  qtlb : AMap (List Xlat)
  tiles : AMap Tile
  jobs : AMap Job
  polders : AMap Polder
  barges : List Barge
  nbarge : Nat
  fns : AMap Fn
  sluices : AMap Sluice
  groups : List Group
  power : Nat
  fabric : Nat
  /-- heartbeats sent (R373) -/
  beats : Nat
  meas : AMap (BitVec 512)
  lifecycle : Nat
  lcseq : Word
  ownerKey : List Byte
  keysErased : Bool
  /-- SPDM requests so far with their responses, oldest first (R383) -/
  spdm : List (List Byte × List Byte)
  /-- firmware region: base and length of physical addresses (R323) -/
  firmware : Nat × Nat
  keyEpoch : Nat
  poweredDown : Bool
  /-- the thermal limit was reached: the record for the next management session (R5) -/
  thermal : Bool
  /-- both host sluices have failed: no function is left (R371) -/
  hostLost : Bool
  deriving DecidableEq, Repr

/-- Sluices at full width (R365, R366). -/
def Sluice.full (n : Nat) : Sluice :=
  let m := if n < 4 then 8 else 4
  { lanes := 64 * m, modules := List.replicate m {} }

/-- The machine right after package reset: every register at its reset value, every memory wiped to zero (R386), no job.
Values the manual does not give are those of logs 1 to 13. -/
def State.reset : State where
  ccy := 0
  inputs := []
  cur := 0
  draws := 0
  timers := {}
  disc := List.replicate 48 12
  mem := []
  poison := []
  host := []
  hostReads := []
  hostHoles := []
  pend := []
  dhq := []
  dhClock := []
  dhLast := []
  coldTile := []
  coldPolder := []
  qtlb := []
  tiles := []
  jobs := []
  polders := [(0, { qx0 := 0, qx1 := 3, qy0 := 0, qy1 := 3 })]
  barges := []
  nbarge := 0
  fns := []
  sluices := (List.range 6).map (fun n => (n, Sluice.full n))
  groups := []
  power := 3000
  fabric := 0
  beats := 0
  meas := []
  lifecycle := 2
  lcseq := 0
  ownerKey := []
  keysErased := false
  spdm := []
  firmware := (0, 0)
  keyEpoch := 0
  poweredDown := false
  thermal := false
  hostLost := false

/-! Reading the maps: an unlisted tile, stream or function is as at reset. -/

def State.tile (s : State) (n : Nat) : Tile := AMap.getD s.tiles n {}
def State.setTile (s : State) (n : Nat) (t : Tile) : State := { s with tiles := AMap.set s.tiles n t }
def State.job? (s : State) (j : Nat) : Option Job := AMap.get? s.jobs j
def State.setJob (s : State) (j : Nat) (x : Job) : State := { s with jobs := AMap.set s.jobs j x }
def State.fn (s : State) (f : Nat) : Fn := AMap.getD s.fns f {}
def State.setFn (s : State) (f : Nat) (x : Fn) : State := { s with fns := AMap.set s.fns f x }
def State.polder? (s : State) (q : Nat) : Option Polder := AMap.get? s.polders q
def State.setPolder (s : State) (q : Nat) (x : Polder) : State := { s with polders := AMap.set s.polders q x }
def State.sluice (s : State) (n : Nat) : Sluice := AMap.getD s.sluices n (Sluice.full n)
def State.setSluice (s : State) (n : Nat) (x : Sluice) : State := { s with sluices := AMap.set s.sluices n x }
def Job.stream (j : Job) (n : Nat) : Stream := AMap.getD j.streams n {}
def Job.setStream (j : Job) (n : Nat) (x : Stream) : Job := { j with streams := AMap.set j.streams n x }
def Job.gang? (j : Job) (g : Nat) : Option Gang := AMap.get? j.gangs g
def Job.setGang (j : Job) (g : Nat) (x : Gang) : Job := { j with gangs := AMap.set j.gangs g x }
def State.gang? (s : State) (j g : Nat) : Option Gang := (s.job? j).bind (·.gang? g)
def State.setGang (s : State) (j g : Nat) (x : Gang) : State :=
  match s.job? j with
  | some y => s.setJob j (y.setGang g x)
  | none => s

end Sys2Proof.Machine
end

