-- ==== Sys2Proof/Machine/Records.lean ====
section
/-! DEFINITION. Records.lean: continuation records as bytes (R13 to R15), CRC-32 (R14), FLAGS (R18), lineage (R22). -/
namespace Sys2Proof.Machine

/-- Eight steps of the reflected CRC of R14 on one byte. -/
def crcBits : Nat → BitVec 32 → BitVec 32
  | 0, c => c
  | n + 1, c => crcBits n (if c.getLsbD 0 then (c >>> 1) ^^^ 0xEDB88320 else c >>> 1)

/-- The CRC of bytes from a running value. -/
def crcFold : List Byte → BitVec 32 → BitVec 32
  | [], c => c
  | b :: t, c => crcFold t (crcBits 8 (c ^^^ b.setWidth 32))

/-- CRC-32 with initial value and final exclusive-or of all ones (R14). -/
def crc32 (bs : List Byte) : BitVec 32 := crcFold bs 0xFFFFFFFF ^^^ 0xFFFFFFFF

/-! Fields of FLAGS (R18). -/

def Record.depth (r : Record) : Nat := (r.flags.extractLsb' 0 6).toNat
def Record.next (r : Record) : Nat := (r.flags.extractLsb' 6 5).toNat
def Record.rootw (r : Record) : Nat := (r.flags.extractLsb' 11 3).toNat
def Record.evicted (r : Record) : Bool := r.flags.getLsbD 14
def Record.handler (r : Record) : Bool := r.flags.getLsbD 15

/-- FLAGS of its fields (R18). -/
def mkFlags (depth next rootw : Nat) (evicted handler : Bool) : BitVec 32 :=
  BitVec.ofNat 32 (depth % 64 + 64 * (next % 32) + 2048 * (rootw % 8) + (if evicted then 16384 else 0)
    + (if handler then 32768 else 0))

def Record.setNext (r : Record) (n : Nat) : Record :=
  { r with flags := mkFlags r.depth n r.rootw r.evicted r.handler }
def Record.setEvicted (r : Record) (b : Bool) : Record :=
  { r with flags := mkFlags r.depth r.next r.rootw b r.handler }

/-- Lineage(t) (R22). -/
def Record.key (r : Record) : TKey := ⟨r.lin, r.depth⟩

/-- The record's address, FP + 0x17C0 (R19). -/
def Record.addr (r : Record) : Nat := r.fp.toNat + Config.recOff

/-- Level k of a lineage, k from 1 to 32 (R22). -/
def linLevel (lin : BitVec 128) (k : Nat) : Nat := (lin.extractLsb' (128 - 4 * k) 4).toNat

/-- LIN with level k set (R22). -/
def linSet (lin : BitVec 128) (k n : Nat) : BitVec 128 := lin ||| BitVec.ofNat 128 ((n % 16) * 2 ^ (128 - 4 * k))

/-- Lineage order: LIN, then DEPTH (R22). -/
def TKey.lt (a b : TKey) : Bool := decide (a.lin.toNat < b.lin.toNat) || (a.lin == b.lin && decide (a.depth < b.depth))

/-- The number of hexadecimal digits of n − 1, at least 1 (R22). -/
def rootWidth (n : Nat) : Nat := max 1 ((n - 1).log2 / 4 + 1)

/-- The lineage of root i of a gang with `w` root digits (R22). -/
def rootLin (w i : Nat) : BitVec 128 := BitVec.ofNat 128 (i * 2 ^ (128 - 4 * w))

/-- The root index of a record (R22, R164). -/
def Record.rootIndex (r : Record) : Nat := r.lin.toNat / 2 ^ (128 - 4 * r.rootw)

/-- Bytes 0 to 59 (R13). -/
def Record.body (r : Record) : List Byte :=
  leBytes 8 r.cp.toNat ++ (leBytes 8 r.fp.toNat ++ (leBytes 4 r.jc.toNat ++ (leBytes 2 r.live.toNat ++
  (leBytes 2 r.stage.toNat ++ (leBytes 16 r.lin.toNat ++ (leBytes 4 r.gang.toNat ++ (leBytes 4 r.flags.toNat ++
  (leBytes 8 r.parent.toNat ++ leBytes 4 r.seq.toNat))))))))

/-- The 64 bytes, CHK included (R13, R14). -/
def Record.bytes (r : Record) : List Byte := r.body ++ leBytes 4 (crc32 r.body).toNat

/-- A little-endian field of `n` bytes at offset `o` of some bytes. -/
def fieldAt (bs : List Byte) (o n : Nat) : Nat := leVal ((bs.drop o).take n)

def Record.ofBytes (bs : List Byte) : Record where
  cp := word (fieldAt bs 0 8)
  fp := word (fieldAt bs 8 8)
  jc := BitVec.ofNat 32 (fieldAt bs 16 4)
  live := BitVec.ofNat 16 (fieldAt bs 20 2)
  stage := BitVec.ofNat 16 (fieldAt bs 22 2)
  lin := BitVec.ofNat 128 (fieldAt bs 24 16)
  gang := BitVec.ofNat 32 (fieldAt bs 40 4)
  flags := BitVec.ofNat 32 (fieldAt bs 44 4)
  parent := word (fieldAt bs 48 8)
  seq := BitVec.ofNat 32 (fieldAt bs 56 4)

/-- CHK of 64 bytes holds (R14). -/
def chkOk (bs : List Byte) : Bool := (crc32 (bs.take 60)).toNat == fieldAt bs 60 4

/-- The limits of a CP (R13). -/
def cpOk (cp : Word) : Bool :=
  decide (cp.toNat < 2 ^ 60) && [0, 12, 24, 36, 48].contains (cp.toNat % 64)

/-- The limits of an FP (R13). -/
def fpOk (fp : Word) : Bool := decide (fp.toNat < 2 ^ 60) && fp.toNat % 256 == 0

/-- The limits of a PARENT (R13). -/
def parentOk (p : Word) : Bool := p == 0 || (decide (p.toNat < 2 ^ 60) && p.toNat % 256 == 0xC0)

/-- R15 for a record of a gang of `nstage` stages. -/
def Record.valid (r : Record) (nstage : Nat) : Bool :=
  cpOk r.cp && fpOk r.fp && decide (r.live.toNat ≤ 688) && decide (r.stage.toNat < nstage) && parentOk r.parent
    && decide (r.flags.toNat < 65536) && decide (1 ≤ r.depth) && decide (r.depth ≤ 32) && decide (r.next ≤ 16)
    && decide (1 ≤ r.rootw) && decide (r.rootw ≤ 6) && decide (r.rootw ≤ r.depth)
    && r.lin.toNat % 2 ^ (128 - 4 * r.depth) == 0

/-- The GANG field of the border context, and of no gang (R24, R74). -/
abbrev noGang : Nat := 0xFFFFFFFF

end Sys2Proof.Machine
end

