-- ==== Sys2Proof/Machine/Operands.lean ====
section
/-! DEFINITION. Operands.lean: the registers as bytes of the workspace (R131 to R134), the operand forms (R94 to R96), integer
values and results (R147, R148), vector elements and lanes (R133). -/
namespace Sys2Proof.Machine

/-! The scratchpad. -/

/-- Matrix and scratchpad sizes: the scratchpad is 1,536 KiB less L1 (R241). -/
def spSizeOf (memcfg : Word) : Nat := 1536 * 1024 - 65536 * 2 ^ (memcfg.toNat % 4)

/-- Bytes written to the scratchpad: a unit of 8 bytes written whole loses its poison (R146); in a superstep that journals
the 256-byte units written are noted (R331). -/
def Tile.putSp (t : Tile) (a : Nat) (bs : List Byte) : Tile :=
  { t with
    sp := t.sp.writeBytes a bs
    spPoison := t.spPoison.filter (fun u => !(decide (a ≤ 8 * u) && decide (8 * u + 8 ≤ a + bs.length)))
    units := if t.journaling then (unitsOf 256 a bs.length).foldl (fun acc u => NSet.insert u acc) t.units else t.units }

/-! A workspace as an image in the scratchpad (R132, R134). -/

abbrev offF : Nat := 0x1200
abbrev cFPFLAGS : Nat := 0x1480
abbrev cTCAUSE : Nat := 0x1490
abbrev cSBCFG (k : Nat) : Nat := 0x14A8 + 8 * k

/-- The bits a control register has; the others read as zero (R10, R134, R137, R141). -/
def ctlMask (off : Nat) : Word :=
  if off = cFPFLAGS then 63 else if off = cTCAUSE then word (2 ^ 63 + 63)
  else if cSBCFG 0 ≤ off ∧ off < cSBCFG 4 then word (2 ^ 62 - 1) else word (2 ^ 64 - 1)

/-- Reserved bits of the control registers of the workspace at b are zero (R10). DESIGN CHOICE (log 131): the other bits of a control
block brought in from memory stand as they are, a BOUND with a count of 0, a NEXT that is not aligned and a LATCH above 256 among
them. -/
def maskImage (m : Memory) (b : Nat) : Memory :=
  [cFPFLAGS, cTCAUSE, cSBCFG 0, cSBCFG 1, cSBCFG 2, cSBCFG 3].foldl (fun m o =>
    m.writeBytes (b + o) (leBytes 8 (m.word (b + o) &&& ctlMask o).toNat)) m

/-- The image at b after bytes [a, a + n) have been stored: f0 all ones, reserved bits zero (R10, R132). -/
def keepImage (m : Memory) (a n b : Nat) : Memory :=
  let m := if b + offF < a + n ∧ a < b + offF + 16 then m.writeBytes (b + offF) (List.replicate 16 0xFF) else m
  if b + 0x1480 < a + n ∧ a < b + 0x14C8 then maskImage m b else m

/-- First bytes of the workspaces on a tile: that of what it runs, that of a root that waits on it (R131, R160). -/
def Tile.images (t : Tile) : List Nat := t.wp.toNat :: (t.root.map (·.base)).toList

/-- Bytes stored by a task, or by an agent that writes for one: f0's bytes stay, and reserved bits of control registers read as zero
(R10, R132, R138). -/
def Tile.storeSp (t : Tile) (a : Nat) (bs : List Byte) : Tile :=
  let t := t.putSp a bs
  { t with sp := t.images.foldl (fun m b => keepImage m a bs.length b) t.sp }

/-- Some byte of [a, a + n) of the scratchpad is poisoned. -/
def Tile.spBad (t : Tile) (a n : Nat) : Bool :=
  t.spPoison.any (fun u => decide (8 * u < a + n) && decide (a < 8 * u + 8))

/-! Registers (R132). -/

abbrev offV : Nat := 0x200
abbrev offY : Nat := 0x1280
abbrev offCtl : Nat := 0x1480

/-- First byte of the workspace. -/
def Tile.base (t : Tile) : Nat := t.wp.toNat

def Tile.wAt (t : Tile) (k : WReg) : Nat := t.base + 8 * k.val
def Tile.vAt (t : Tile) (k : VReg) : Nat := t.base + offV + 128 * k.val
def Tile.fAt (t : Tile) (k : FReg) : Nat := t.base + offF + 16 * k.val
def Tile.yAt (t : Tile) (k : YReg) : Nat := t.base + offY + 64 * k.val

def Tile.w (t : Tile) (k : WReg) : Word := t.sp.word (t.wAt k)
def Tile.setW (t : Tile) (k : WReg) (v : Word) : Tile := t.putSp (t.wAt k) (leBytes 8 v.toNat)
def Tile.v (t : Tile) (k : VReg) : VWord := BitVec.ofNat 1024 (t.sp.readLE (t.vAt k) 128)
def Tile.setV (t : Tile) (k : VReg) (v : VWord) : Tile := t.putSp (t.vAt k) (leBytes 128 v.toNat)
/-- f0 reads all ones (R94). -/
def Tile.f (t : Tile) (k : FReg) : FWord :=
  if k = 0 then onesF else BitVec.ofNat 128 (t.sp.readLE (t.fAt k) 16)
/-- A write to f0 is ignored (R94). -/
def Tile.setF (t : Tile) (k : FReg) (v : FWord) : Tile :=
  if k = 0 then t else t.putSp (t.fAt k) (leBytes 16 v.toNat)

/-- A register of `n` bytes at `a` rewritten in t' with some of its elements of s bits as they were: an 8-byte unit that holds such
an element keeps its poison (R95, R146). -/
def Tile.keepPoison (t t' : Tile) (a n s : Nat) (on : Nat → Bool) : Tile :=
  { t' with spPoison := t.spPoison.filter (fun u => !(decide (a ≤ 8 * u) && decide (8 * u + 8 ≤ a + n) &&
      (upFrom 1 ((u - a / 8) * (64 / s)) (64 / s)).all on)) }

/-- v(k) with new elements of s bits where `on` holds, the others as they were. -/
def Tile.setElems (t : Tile) (k : VReg) (s : Nat) (on : Nat → Bool) (v : VWord) : Tile :=
  t.keepPoison (t.setV k v) (t.vAt k) 128 s on

/-- f(k) with new bits where `on` holds, the others as they were. -/
def Tile.setBits (t : Tile) (k : FReg) (on : Nat → Bool) (v : FWord) : Tile :=
  t.keepPoison (t.setF k v) (t.fAt k) 16 1 (fun j => on j && decide (k ≠ 0))

/-! The control block (R134). -/

abbrev cTRAPVEC : Nat := 0x1488
abbrev cTPC : Nat := 0x1498
abbrev cTVAL : Nat := 0x14A0
abbrev cSGSTR (k : Nat) : Nat := 0x14C8 + 8 * k
abbrev cSGCNT (k : Nat) : Nat := 0x14E8 + 8 * k
abbrev cQCOUNT : Nat := 0x1508
abbrev cLATCH : Nat := 0x1510

def Tile.ctl (t : Tile) (off : Nat) : Word := t.sp.word (t.base + off)
def Tile.setCtl (t : Tile) (off : Nat) (v : Word) : Tile := t.putSp (t.base + off) (leBytes 8 v.toNat)
/-- A control register that hardware updates from what it holds: a poisoned one stays poisoned (R146, log 100). -/
def Tile.bumpCtl (t : Tile) (off : Nat) (v : Word) : Tile := { t.setCtl off v with spPoison := t.spPoison }

/-- The bytes at WP taken as the workspace: f0 all ones, whatever stands there, and reserved bits of the control registers zero (R10,
R19, R132). -/
def Tile.asWorkspace (t : Tile) : Tile :=
  let t := t.putSp (t.base + offF) (List.replicate 16 0xFF)
  { t with sp := maskImage t.sp t.base }

/-- Flags only set (R137). -/
def Tile.stick (t : Tile) (f : Fl) : Tile :=
  if f = 0 then t else t.bumpCtl cFPFLAGS (stickFlags (t.ctl cFPFLAGS) f)

/-- A workspace of zeroes but for f0 (R19). -/
def Tile.clearWorkspace (t : Tile) : Tile :=
  let t := { t with sp := t.sp.zero t.base 0x1580,
                    spPoison := t.spPoison.filter (fun u => !(decide (t.base ≤ 8 * u) && decide (8 * u < t.base + 0x1580))) }
  t.putSp (t.base + offF) (List.replicate 16 0xFF)

/-- The byte range of the control block and the reserved area, which a task may not write (R135). -/
def Tile.inControl (t : Tile) (o : Nat) : Bool := decide (t.base + 0x1480 ≤ o) && decide (o < t.base + 0x1800)

/-- One byte of the scratchpad as a load of the task sees it: its reserved range reads as zero (R135). -/
def Tile.taskByte (t : Tile) (a : Nat) : Byte :=
  if decide (t.base + 0x1518 ≤ a) && decide (a < t.base + 0x1800) && !t.run.any (·.sup) then 0 else t.sp.get a

def Tile.taskBytes (t : Tile) (a n : Nat) : List Byte := (upFrom 1 a n).map { t with sp := t.sp.near a n }.taskByte

/-! Predicates and lanes (R95). -/

def Tile.predWord (t : Tile) (p : Pred) : FWord := if p.neg then ~~~(t.f p.f) else t.f p.f
/-- A whole instruction is enabled by bit 0 (R95). -/
def Tile.enabled (t : Tile) (p : Pred) : Bool := (t.predWord p).getLsbD 0
/-- Lane j is enabled by bit j (R95). -/
def Tile.lane (t : Tile) (p : Pred) (j : Nat) : Bool := (t.predWord p).getLsbD j

/-- The enabled lanes of `n`, in increasing order. -/
def Tile.lanes (t : Tile) (p : Pred) (n : Nat) : List Nat := (List.range n).filter (fun j => t.lane p j)

/-! Integer operands (R147, R148). -/

/-- The B operand of a scalar form (R96). -/
def Tile.opB (t : Tile) : OpB → Word
  | .reg b => t.w b
  | .imm v => v.signExtend 64

/-- Val (R147). -/
def intVal (ty : Ty) (x : Word) : Int := intOf ty.signed ty.bits x.toNat

/-- The 64-bit pattern Put writes (R147). -/
def putInt (ty : Ty) (x : Int) : Word := BitVec.ofInt 64 (intOf ty.signed ty.bits (x % 2 ^ ty.bits).toNat)

/-- Least and greatest values of an integer type (R173). -/
def intMin (ty : Ty) : Int := if ty.signed then -(2 ^ (ty.bits - 1)) else 0
def intMax (ty : Ty) : Int := if ty.signed then 2 ^ (ty.bits - 1) - 1 else 2 ^ ty.bits - 1

/-- Saturation under MOD[3] (R148): the value kept and whether SAT is set. -/
def saturate (ty : Ty) (sat : Bool) (x : Int) : Int × Fl :=
  if sat && decide (x < intMin ty) then (intMin ty, fSAT)
  else if sat && decide (intMax ty < x) then (intMax ty, fSAT)
  else (x, 0)

/-! Vector elements (R133). -/

/-- Element j of s bits. -/
def vElem (s : Nat) (x : VWord) (j : Nat) : Nat := x.toNat / 2 ^ (s * j) % 2 ^ s

/-- The 1024-bit value of elements of s bits, element 0 the lowest; each is cut to s bits. -/
def vOfElems (s : Nat) : List Nat → Nat
  | [] => 0
  | x :: t => x % 2 ^ s + 2 ^ s * vOfElems s t

/-- The B operand of a vector form: every element of an immediate is its low s bits (R191). -/
def vImm (s : Nat) (v : BitVec 40) : VWord :=
  BitVec.ofNat 1024 (vOfElems s (List.replicate (1024 / s) (v.signExtend 64).toNat))

/-- The lane that governs element j: the byte of a 4-bit element (R133). -/
def laneOf (s j : Nat) : Nat := if s < 8 then j * s / 8 else j

/-- The random word of element j under SR (R183). -/
def srWord (c : VWord) (j : Nat) : BitVec 32 :=
  (BitVec.ofNat 32 (vElem 32 c (j % 32))).rotateLeft (8 * (j / 32))

end Sys2Proof.Machine
end

