-- ==== Sys2Proof/Machine/Sluice.lean ====
section
/-! DEFINITION. Sluice.lean: the fault queues (R358), the lanes and rates of the sluices (R365 to R370), the way between dies. -/
namespace Sys2Proof.Machine

/-! Fault queues (R358). -/

/-- Bytes of a fault record (R258, R336). -/
def faultRecord (va ia task gang kind acc level tile job seq : Nat) (ccy : Nat) : List Byte :=
  leBytes 8 va ++ (leBytes 8 ia ++ (leBytes 8 task ++ (leBytes 4 gang ++ (leBytes 1 kind ++ (leBytes 1 acc ++
  (leBytes 1 level ++ (leBytes 1 0 ++ (leBytes 2 tile ++ (leBytes 2 job ++ (leBytes 4 seq ++ (leBytes 8 ccy ++
  leBytes 16 0)))))))))))

/-- As R336, with byte 31 the DETAIL or quadrant. -/
def faultRecord31 (va ia task gang kind b29 b30 b31 tile job seq : Nat) (ccy : Nat) : List Byte :=
  leBytes 8 va ++ (leBytes 8 ia ++ (leBytes 8 task ++ (leBytes 4 gang ++ (leBytes 1 kind ++ (leBytes 1 b29 ++
  (leBytes 1 b30 ++ (leBytes 1 b31 ++ (leBytes 2 tile ++ (leBytes 2 job ++ (leBytes 4 seq ++ (leBytes 8 ccy ++
  leBytes 16 0)))))))))))

/-- Records are posted while the ring has room; vector 0 follows each, and vector 2 a sluice or fabric record in the physical
function (R356, R358). -/
def State.drainFq : Nat → State → Nat → State
  | 0, s, _ => s
  | n + 1, s, f =>
    let x := s.fn f
    match x.held with
    | [] => s
    | r :: t =>
      if x.fqsize = 0 || x.fqtail - x.fqhead = x.fqsize then s
      else
        State.drainFq n ({ s with host := s.host.writeBytes (x.fqbase + 64 * (x.fqtail % x.fqsize)) r }.setFn f
          { x with held := t, fqtail := x.fqtail + 1
                   msix := x.msix ++ (if f = 0 && (r[28]? == some 19 || r[28]? == some 20) then [0, 2] else [0]) }) f

/-- A record posted to a function's queue; its number is the count of records posted before it (R358). -/
def State.postFault (s : State) (f : Nat) (r : List Byte) : State × Nat :=
  let x := s.fn f
  let num := x.fqtail + x.held.length
  ((s.setFn f { x with held := x.held ++ [r] }).drainFq (x.held.length + 1) f, num)

/-! Rates and lanes (R366, R367, R369, R370). -/

def Sluice.rate (x : Sluice) : Nat := x.rsel + 256 * x.cur + (if x.train then 2048 else 0)

/-- RATE || WIDTH (R370). -/
def Sluice.rateWidth (x : Sluice) : Nat := 2 ^ 32 * x.rate + x.lanes

/-- SLUICE_DEGRADED: a KIND 19 record to the physical function (R370). -/
def State.degraded (s : State) (n cause : Nat) (before after : Sluice) : State :=
  (s.postFault 0 (faultRecord31 before.rateWidth after.rateWidth 0 0 19 cause n 0 0 0 0 s.ccy.toNat)).1

/-- Active lanes of a module. -/
def Lanes.active (m : Lanes) : Nat := if m.off then 0 else if m.half.isSome then 32 else 64

/-- A module after a retraining that found some of its lanes failing (R369; log 52). -/
def Lanes.repair (m : Lanes) (bad : List Nat) : Lanes :=
  if m.off then m
  else match m.half with
    | some h => if bad.any (fun l => decide (l / 32 ≠ h)) then { m with off := true } else m
    | none =>
      let all := bad.foldl (fun acc l => NSet.insert l acc) m.moved
      if all.length ≤ 4 then { m with moved := all }
      else if all.all (fun l => decide (l < 32)) then { m with half := some 0 }
      else if all.all (fun l => decide (32 ≤ l)) then { m with half := some 1 }
      else { m with off := true }

/-- A sluice after its retraining: each failing lane is a module and a lane of it. -/
def Sluice.retrained (x : Sluice) (failing : List (Nat × Nat)) : Sluice :=
  let ms := x.modules.zipIdx.map (fun e =>
    e.1.repair ((failing.filter (fun f => decide (f.1 = e.2) && decide (f.2 < 64))).map (·.2)))
  let fresh := (ms.zip x.modules).map (fun (e : Lanes × Lanes) => e.1.moved.length - e.2.moved.length)
  { x with
    cur := x.rsel
    train := false
    modules := ms
    lanes := (ms.map Lanes.active).foldl (· + ·) 0
    repaired := min 63 (x.repaired + fresh.foldl (· + ·) 0)
    halved := (ms.filter (fun m => m.half.isSome && !m.off)).length
    off := (ms.filter (·.off)).length }

/-- The end of a retraining in registers and records (R367, R370). -/
def State.trained (s : State) (n : Nat) (x y : Sluice) : State :=
  let s := s.setSluice n y
  let s := if y.cur < x.cur then s.degraded n 1 x y else s
  if y.lanes < x.lanes then s.degraded n 2 x y else s

/-- A retraining that finds no lane failing ended at once: what waits to cross the sluice waits no longer (R294, R367). -/
def State.endTraining (s : State) (n : Nat) : State :=
  let x := s.sluice n
  if x.train then s.trained n x (x.retrained []) else s

/-! Between dies (R365, R371). -/

/-- The dies a die-to-die sluice joins (R365). -/
def sluiceDies (n : Nat) : List Nat :=
  match n with
  | 0 => [0, 1]
  | 1 => [2, 3]
  | 2 => [0, 2]
  | 3 => [1, 3]
  | _ => []

/-- A sluice has the lanes to carry traffic (R371). -/
def Sluice.wide (x : Sluice) : Bool := decide (64 ≤ x.lanes)

/-- Traffic crosses a sluice now: it has the lanes and is not retraining (R367, R371). -/
def Sluice.carries (x : Sluice) : Bool := x.wide && !x.train

/-- The sluice between dies side by side, or one above the other, with its direction, 1 towards the lower die (R365). -/
def sluiceX (a b : Nat) : List (Nat × Nat) := if a % 2 = b % 2 then [] else [(a / 2, if a % 2 < b % 2 then 0 else 1)]
def sluiceY (a b : Nat) : List (Nat × Nat) := if a / 2 = b / 2 then [] else [(2 + a % 2, if a / 2 < b / 2 then 0 else 1)]

/-- The sluices from one die to another. DESIGN CHOICE (log 114): along x first; where a sluice of that way has too few lanes, the
other way round the four dies, if all of it has them. -/
def State.sluiceRoute (s : State) (a b : Nat) : List (Nat × Nat) :=
  let corner := 2 * (a / 2) + b % 2
  let first := sluiceX a corner ++ sluiceY corner b
  let other :=
    if a % 2 = b % 2 then sluiceX a (a ^^^ 1) ++ sluiceY (a ^^^ 1) (b ^^^ 1) ++ sluiceX (b ^^^ 1) b
    else if a / 2 = b / 2 then sluiceY a (a ^^^ 2) ++ sluiceX (a ^^^ 2) (b ^^^ 2) ++ sluiceY (b ^^^ 2) b
    else sluiceY a (2 * (b / 2) + a % 2) ++ sluiceX (2 * (b / 2) + a % 2) b
  let good (r : List (Nat × Nat)) : Bool := r.all (fun h => (s.sluice h.1).wide)
  if !good first && good other then other else first

end Sys2Proof.Machine
end

