-- ==== Sys2Proof/Machine/Phys.lean ====
section
/-! DEFINITION. Phys.lean: where physical bytes live. Homes, pending contributions (R312 to R314), die-hashed pages (R252,
R293), L1 (R244 to R247) and its maintenance, poison (R260). -/
namespace Sys2Proof.Machine

/-! Places (R1). -/

def dieOf (tile : Nat) : Nat := tile % 24 / 12 + 2 * (tile / 24 / 12)
def quadOf (tile : Nat) : Nat := tile % 24 / 6 + 4 * (tile / 24 / 6)
def dieOfQuad (q : Nat) : Nat := q % 4 / 2 + 2 * (q / 4 / 2)

/-- Manhattan distance of two tiles. -/
def distance (a b : Nat) : Nat :=
  ((a % 24 : Int) - (b % 24 : Int)).natAbs + ((a / 24 : Int) - (b / 24 : Int)).natAbs

/-- The quadrants of a polder, rising (R58). -/
def Polder.quads (p : Polder) : List Nat :=
  (List.range 16).filter (fun q => decide (p.qx0 ≤ q % 4) && decide (q % 4 ≤ p.qx1) && decide (p.qy0 ≤ q / 4)
    && decide (q / 4 ≤ p.qy1))

/-- The polder's lowest quadrant, by which it is named. -/
def Polder.lowest (p : Polder) : Nat := p.qx0 + 4 * p.qy0

def Polder.dies (p : Polder) : List Nat := (List.range 4).filter (fun d => p.quads.any (fun q => dieOfQuad q == d))

/-- The tiles of a polder, rising. -/
def Polder.tiles (p : Polder) : List Nat := (List.range 576).filter (fun n => p.quads.contains (quadOf n))

/-- The polder's slices, rising (R250). DEDUCED (log 16): the quadrants of a die, in increasing number, own its slices four
by four. -/
def Polder.slices (p : Polder) : List Nat :=
  (upFrom 1 0 64).filter (fun sl =>
    p.quads.any (fun q => decide (dieOfQuad q = sl / 16) && decide (q % 2 + 2 * (q / 4 % 2) = sl % 16 / 4)))

/-- The polder that holds a quadrant. -/
def State.polderOfQuad (s : State) (q : Nat) : Option (Nat × Polder) := s.polders.find? (fun e => e.2.quads.contains q)
def State.polderOfTile (s : State) (n : Nat) : Option (Nat × Polder) := s.polderOfQuad (quadOf n)

def State.memcfgOf (s : State) (tile : Nat) : Word :=
  match s.polderOfTile tile with
  | some (_, p) => p.memcfg
  | none => 0x2401

/-- Scratchpad size of a tile (R241). -/
def State.spSize (s : State) (tile : Nat) : Nat := spSizeOf (s.memcfgOf tile)

/-- The site of a tile: which polder's memory on which die it reaches (R252). -/
def State.siteOf (s : State) (tile : Nat) : Nat :=
  match s.polderOfTile tile with
  | some (q, _) => 4 * q + dieOf tile
  | none => dieOf tile

/-- The sites of a polder, named by its lowest quadrant. -/
def Polder.sites (p : Polder) (q : Nat) : List Nat := p.dies.map (fun d => 4 * q + d)

def State.sitesOfTile (s : State) (tile : Nat) : List Nat :=
  match s.polderOfTile tile with
  | some (q, p) => p.sites q
  | none => [dieOf tile]

/-! One step of a reduction or an atomic (R187, R310). -/

/-- The result of one step on patterns of a type; `a` is the value accumulated so far (R187, R312). DEDUCED (log 17): a
floating step rounds the exact sum once, with the zero signs of R181. -/
def redStep (op : RedOp) (ty : Ty) (md : Rnd) (a b : Nat) : Nat :=
  let s := ty.bits
  match op with
  | .and => a &&& b
  | .or => a ||| b
  | .xor => a ^^^ b
  | .add =>
    if ty.isInt then (a + b) % 2 ^ s
    else (round ty md false 0 (Num.add (md == .rdn) (valueOf ty a) (valueOf ty b))).1
  | .min =>
    (match fmtOf ty with
    | some f => minMaxF f s false a b
    | none => if intOf ty.signed s b < intOf ty.signed s a then b else a)
  | .max =>
    (match fmtOf ty with
    | some f => minMaxF f s true a b
    | none => if intOf ty.signed s a < intOf ty.signed s b then b else a)

/-- The value an atomic writes, none when cas does not match (R310). -/
def atomNew (op : AmoOp) (ty : Ty) (old v c : Nat) : Option Nat :=
  match op with
  | .add => some (redStep .add ty .rne old v)
  | .and => some (old &&& v)
  | .or => some (old ||| v)
  | .xor => some (old ^^^ v)
  | .min => some (redStep .min ty .rne old v)
  | .max => some (redStep .max ty .rne old v)
  | .swap => some v
  | .cas => if old = c then some v else none

/-! Homes. -/

/-- The key of a physical address for a requester at a site (R252). -/
def physKey (site pa : Nat) : Nat := if pa < 2 ^ 51 then pa else (site + 1) * 2 ^ 52 + pa

/-- The site whose copy a key names, when it is one of a die-hashed page. -/
def keySite (k : Nat) : Option Nat := if k < 2 ^ 52 then none else some (k / 2 ^ 52 - 1)

/-- Poison of the 8-byte units of [a, a + n) (R260). -/
def State.memBad (s : State) (a n : Nat) : Bool :=
  s.poison.any (fun u => decide (8 * u < a + n) && decide (a < 8 * u + 8))

/-- Insertion by an order; equal elements keep their order. -/
def insertBy {α : Type} (lt : α → α → Bool) (x : α) : List α → List α
  | [] => [x]
  | y :: t => if lt x y then x :: y :: t else y :: insertBy lt x t

/-- Sorting by an order; equal elements keep their order. -/
def sortBy {α : Type} (lt : α → α → Bool) (l : List α) : List α := l.foldl (fun acc x => insertBy lt x acc) []

/-- Lineage order, then program order (R312). -/
def Contrib.lt (a b : Contrib) : Bool := a.key.lt b.key || (a.key == b.key && decide (a.ord < b.ord))

def Contrib.hits (c : Contrib) (a n : Nat) : Bool := decide (c.addr < a + n) && decide (a < c.addr + c.ty.bits / 8)

/-- One contribution combined into the bytes at its location. -/
def Contrib.into (m : Memory) (c : Contrib) : Memory :=
  let n := c.ty.bits / 8
  m.writeLE c.addr n (redStep c.op c.ty c.md (m.readLE c.addr n) c.val)

/-- The sources of contributions, in the order of their first (R312). -/
def sourcesOf : List Contrib → List (Nat × Nat)
  | [] => []
  | c :: t => (c.job, c.gang) :: (sourcesOf t).filter (fun g => decide (g ≠ (c.job, c.gang)))

/-- The location of a contribution among others: the start of the largest element of theirs that touches it. -/
def Contrib.cell (cs : List Contrib) (c : Contrib) : Nat :=
  let m := (cs.filter (·.hits c.addr (c.ty.bits / 8))).foldl (fun m x => max m (x.ty.bits / 8)) (c.ty.bits / 8)
  c.addr / m * m

/-- Contributions in the order R312 gives: location by location; at each by source, each source in key order. -/
def orderContribs (cs : List Contrib) : List Contrib :=
  (cs.foldl (fun l c => NSet.insert (c.cell cs) l) []).flatMap (fun a =>
    let here := cs.filter (fun c => decide (c.cell cs = a))
    (sourcesOf here).flatMap (fun g => sortBy Contrib.lt (here.filter (fun c => decide ((c.job, c.gang) = g)))))

/-- [a, a + n) with the whole of every contribution to it: start and end. -/
def spanOf (cs : List Contrib) (a n : Nat) : Nat × Nat :=
  (cs.filter (·.hits a n)).foldl (fun r c => (min r.1 c.addr, max r.2 (c.addr + c.ty.bits / 8))) (a, a + n)

/-- The slots held in L1 anywhere that touch [a, a + n), in tile order (R314). -/
def State.heldSlots (s : State) (a n : Nat) : List Contrib := s.tiles.flatMap (fun e => e.2.slots.filter (·.hits a n))

/-- Before an access at the home of [a, a + n): slots are recalled and every contribution to its elements combined (R314,
R306). -/
def State.combine (s : State) (a n : Nat) : State :=
  let r := spanOf (s.pend ++ s.heldSlots a n) a n
  let rel := s.pend.filter (·.hits r.1 (r.2 - r.1)) ++ s.heldSlots r.1 (r.2 - r.1)
  if rel.isEmpty then s
  else
    { s with
      mem := (orderContribs rel).foldl Contrib.into s.mem
      pend := s.pend.filter (fun c => !c.hits r.1 (r.2 - r.1))
      tiles := s.tiles.map (fun e => (e.1, { e.2 with slots := e.2.slots.filter (fun c => !c.hits r.1 (r.2 - r.1)) })) }

/-- Before a store at the home: every contribution to the lines it touches is combined (R306). -/
def State.combineLines (s : State) (a n : Nat) : State := s.combine (a / 32 * 32) ((a + n + 31) / 32 * 32 - a / 32 * 32)

/-- Memory as it would stand with every contribution combined. -/
def State.settledMem (s : State) : Memory :=
  (orderContribs (s.pend ++ s.tiles.flatMap (fun e => e.2.slots))).foldl Contrib.into s.mem

/-- What ldc of a tile reads lines from: memory as it stood when the tile's constant cache was last emptied (R248, R268). -/
def State.coldMem (s : State) (tile : Nat) : Memory :=
  match AMap.get? s.coldTile tile, s.polderOfTile tile with
  | some m, _ => m
  | none, some (q, _) => AMap.getD s.coldPolder q []
  | none, none => []

/-- The constant caches of a polder's tiles are emptied (R248). -/
def State.coolPolder (s : State) (q : Nat) : State :=
  { s with coldPolder := AMap.set s.coldPolder q s.settledMem
           coldTile := s.coldTile.filter (fun e => !(s.polderOfTile e.1).any (fun p => decide (p.1 = q))) }

/-- The constant cache of one tile is emptied (R70, R248). -/
def State.coolTile (s : State) (n : Nat) : State := { s with coldTile := AMap.set s.coldTile n s.settledMem }

/-- Bytes at their home. -/
def State.homeRead (s : State) (a n : Nat) : State × List Byte :=
  let s := s.combine a n
  (s, s.mem.readBytes a n)

/-- Poison cleared where whole units are written (R260). -/
def clearPoison (p : NSet) (a n : Nat) : NSet := p.filter (fun u => !(decide (a ≤ 8 * u) && decide (8 * u + 8 ≤ a + n)))

/-! Die-hashed pages (R252, R293, R294): five counters per site, the host die the fifth. -/

def State.clockOf (s : State) (site : Nat) : List (BitVec 32) := AMap.getD s.dhClock site (List.replicate 5 0)

/-- A counter has reached a value. DESIGN CHOICE (log 122): R252 gives the counters 32 bits and says nothing of one that wraps round;
they are compared over the half of their range that lies behind. -/
def clockAtLeast (c w : BitVec 32) : Bool := decide ((c - w).toNat < 2 ^ 31)

/-- Clock `c` includes the write of `origin` with clock `w`. -/
def clockHas (c : List (BitVec 32)) (origin : Nat) (w : List (BitVec 32)) : Bool := clockAtLeast (c.getD origin 0) (w.getD origin 0)

/-- The concurrent writes of a byte once one more is applied: those it follows go, and it goes where one follows it (R293). -/
def dhNow (x : DhLast) (l : List DhLast) : List DhLast :=
  if l.any (fun y => clockHas y.clock x.origin x.clock) then l else x :: l.filter (fun y => !clockHas x.clock y.origin y.clock)

/-- Of concurrent writes the byte shows that of the highest die (R293). -/
def dhShown : List DhLast → DhLast → DhLast
  | [], x => x
  | y :: t, x => dhShown t (if x.origin < y.origin then y else x)

/-- One byte of a die copy written under R293. DEDUCED (log 103): every concurrent write that reached it counts, so that all
copies end with one value. -/
def State.dhByte (s : State) (origin : Nat) (clock : List (BitVec 32)) (k : Nat) (b : Byte) : State :=
  let l := dhNow ⟨origin, clock, b⟩ (AMap.getD s.dhLast k [])
  { s with mem := s.mem.set k (dhShown l ⟨0, [], b⟩).val, dhLast := AMap.set s.dhLast k l }

/-- Bytes of a write applied at a die copy. -/
def State.dhBytes (s : State) (origin : Nat) (clock : List (BitVec 32)) : Nat → List Byte → State
  | _, [] => s
  | k, b :: t => (s.dhByte origin clock k b).dhBytes origin clock (k + 1) t

/-- Units of 8 bytes marked poisoned. -/
def markBad (p : NSet) (us : NSet) : NSet := us.foldl (fun p u => NSet.insert u p) p

/-- A write applied at a site and counted in its clock, with the poison it carries (R260). -/
def State.dhApply (s : State) (site origin : Nat) (clock : List (BitVec 32)) (pa : Nat) (bs : List Byte) (bad : NSet := []) : State :=
  let s := s.dhBytes origin clock (physKey site pa) bs
  { s with
    poison := markBad (clearPoison s.poison (physKey site pa) bs.length) (bad.map (fun u => physKey site (8 * u) / 8))
    dhClock := AMap.set s.dhClock site ((s.clockOf site).set origin (clock.getD origin 0)) }

/-- One more in a list of sequence numbers. -/
def bumpSeq (l : List (BitVec 32)) (i : Nat) : List (BitVec 32) := l.modify i (· + 1)

/-- Sluices that a flit of class 2 crosses between two dies, with its numbers there: the next of each (R294, R368). -/
def State.hopsOf (s : State) (a b : Nat) : List Hop :=
  (s.sluiceRoute a b).map (fun h => ⟨h.1, h.2, (s.sluice h.1).sent.getD (2 + 4 * h.2) 0⟩)

/-- The flit is sent: each number is used. -/
def State.sluiceSend (s : State) (a b : Nat) : State :=
  (s.sluiceRoute a b).foldl (fun s h => let x := s.sluice h.1
                                      s.setSluice h.1 { x with sent := bumpSeq x.sent (2 + 4 * h.2) }) s

/-- A write sent from one die to the site of another. -/
def State.dhSend (s : State) (a : Nat) (w : DhWrite) : State :=
  { s.sluiceSend a (w.dest % 4) with dhq := s.dhq ++ [{ w with hops := s.hopsOf a (w.dest % 4) }] }

/-- The flit is the next in sequence on every sluice it crosses; every flit before it there has been delivered (R368). Traffic is held
while a sluice retrains, and none crosses one with too few lanes (R367, R371). -/
def State.inSeq (s : State) (w : DhWrite) : Bool :=
  w.hops.all (fun h => (s.sluice h.sluice).got.getD (2 + 4 * h.dir) 0 == h.seq && ((s.sluice h.sluice).carries || w.at_ == .void))

/-- The flit repeats one that has been delivered (R368). -/
def State.isRepeat (s : State) (w : DhWrite) : Bool :=
  w.hops.any (fun h => let d := (s.sluice h.sluice).got.getD (2 + 4 * h.dir) 0 - h.seq
                       d != 0 && decide (d.toNat < 2 ^ 31))

/-- The flit has been delivered: it is counted on every sluice it crosses, unless it was there already. -/
def State.sluiceTake (s : State) (w : DhWrite) : State :=
  if w.at_ == .here then s
  else w.hops.foldl (fun s h => let x := s.sluice h.sluice
                                s.setSluice h.sluice { x with got := bumpSeq x.got (2 + 4 * h.dir) }) s

/-- A write to a die-hashed page: first at the writer's copy, then on its way to the copies of the other sites of the polder
(R252). The host's write is applied first at the lowest site, with origin 4. -/
def State.dhWrite (s : State) (host : Bool) (site : Nat) (sites : List Nat) (pa : Nat) (bs : List Byte) (bad : NSet := []) : State :=
  let first := if host then sites.headD site else site
  let origin := if host then 4 else site % 4
  let seen := s.clockOf first
  let clock := seen.set origin (seen.getD origin 0 + 1)
  let others := sites.filter (fun d => decide (d ≠ first))
  others.foldl (fun s d => s.dhSend (first % 4) { origin := origin, dest := d, clock := clock, addr := pa, bytes := bs, bad := bad })
    (s.dhApply first origin clock pa bs bad)

/-- A queued write whose predecessors its site has applied (R294). -/
def State.dhDue (s : State) (w : DhWrite) : Bool :=
  let c := s.clockOf w.dest
  (List.range 5).all (fun i =>
    if i = w.origin then decide (w.clock.getD i 0 = c.getD i 0 + 1) else clockAtLeast (c.getD i 0) (w.clock.getD i 0))

/-- A write leaves the queue and is applied (R252, R294). -/
def State.dhTake (s : State) (w : DhWrite) : State :=
  ({ s with dhq := s.dhq.erase w }.sluiceTake w).dhApply w.dest w.origin w.clock w.addr w.bytes w.bad

/-- A flit in sequence whose write waits for its predecessors stays in the apply queue; a void one goes (R294). -/
def State.dhDeliver (s : State) (w : DhWrite) : State :=
  let s := s.sluiceTake w
  { s with dhq := if w.at_ == .void then s.dhq.erase w else { w with at_ := .here } :: s.dhq.erase w }

/-- The next thing done with the queued writes that `p` names: one that has been delivered, or is next in sequence, is applied once
its predecessors are; else one is delivered, or a repeat discarded (R294, R368). -/
def State.dhStep (s : State) (p : DhWrite → Bool) : Option State :=
  match s.dhq.find? (fun w => p w && s.dhDue w && (w.at_ == .here || (w.at_ == .sent && s.inSeq w))) with
  | some w => some (s.dhTake w)
  | none =>
    match s.dhq.find? (fun w => p w && w.at_ != .here && s.inSeq w) with
    | some w => some (s.dhDeliver w)
    | none => (s.dhq.find? (fun w => p w && w.at_ != .here && s.isRepeat w)).map (fun w => { s with dhq := s.dhq.erase w })

/-- Queued writes delivered and applied, at most so many steps. -/
def State.dhRun : Nat → State → State
  | 0, s => s
  | n + 1, s =>
    match s.dhStep (fun _ => true) with
    | some s' => State.dhRun n s'
    | none => s

/-- Every queued write is applied on every copy (R294). What waits for this waits through a retraining of the sluices they cross, which
ends first (R367, log 114). -/
def State.dhDrain (s : State) : State :=
  ((s.dhq.flatMap (·.hops)).foldl (fun (s : State) h => s.endTraining h.sluice) s).dhRun (2 * s.dhq.length)

/-- Writes of a polder that is reset are gone: those on their way arrive void (R337). -/
def State.dhVoid (s : State) (q : Nat) : List DhWrite :=
  (s.dhq.filter (fun w => decide (w.dest / 4 ≠ q) || w.at_ != .here)).map (fun w => if w.dest / 4 = q then { w with at_ := .void } else w)

/-- Flits of class 2 in flight across a sluice in one direction, from a number on: those that a replay sends again (R367, R368). -/
def State.replayed (s : State) (n dir : Nat) (seq : BitVec 32) : List DhWrite :=
  s.dhq.filter (fun w => w.at_ == .sent && w.hops.any (fun h => decide (h.sluice = n) && decide (h.dir = dir) && decide ((h.seq - seq).toNat < 2 ^ 31)))

/-- Flits in flight across a sluice sent again when it retrains, in both directions from the next to be delivered (R367). -/
def State.replayAll (s : State) (n : Nat) : State :=
  { s with dhq := s.dhq ++ [0, 1].flatMap (fun d => s.replayed n d ((s.sluice n).got.getD (2 + 4 * d) 0)) }

/-- Bytes written at their home; at a die copy, or by the host at one, the write goes on to the other sites `sites`. Of the units `bad`
those the write touches become poisoned (R260). -/
def State.writeHome (s : State) (host : Bool) (sites : List Nat) (a : Nat) (bs : List Byte) (bad : NSet := []) : State :=
  let here := bad.filter (fun u => decide (8 * u < a + bs.length) && decide (a < 8 * u + 8))
  match keySite a with
  | some d => s.dhWrite host d sites (a % 2 ^ 52) bs (here.map (fun u => 8 * u % 2 ^ 52 / 8))
  | none =>
    let s := s.combineLines a bs.length
    { s with mem := s.mem.writeBytes a bs, poison := markBad (clearPoison s.poison a bs.length) here }

abbrev State.homeWrite (s : State) (sites : List Nat) (a : Nat) (bs : List Byte) : State := s.writeHome false sites a bs

/-! Caches without a replacement rule (R107, R248, R256): one of the entries that fill their place goes, by a free value (log 20). -/

/-- The entries of a place are as many as it holds. -/
def placeFull {α : Type} (cap : Nat) (p : α → Bool) (l : List α) : Bool := decide (cap ≤ (l.filter p).length)

/-- Room made in a place for one more entry. -/
def makeRoom {α : Type} [DecidableEq α] (cap v : Nat) (p : α → Bool) (l : List α) : List α :=
  let mine := l.filter p
  if mine.length < cap then l
  else match mine[v % mine.length]? with
    | some y => l.erase y
    | none => l

/-! L1. -/

/-- Sets of an L1 of 8 ways of 32-byte lines (R244). DESIGN CHOICE (log 18): the set is the unit number modulo the number
of sets. -/
def State.l1Sets (s : State) (tile : Nat) : Nat := 65536 * 2 ^ ((s.memcfgOf tile).toNat % 4) / 256

def findLine (key : Nat) : List L1Line → Option L1Line
  | [] => none
  | l :: t => if l.key = key then some l else findLine key t

def putLine (x : L1Line) : List L1Line → List L1Line
  | [] => [x]
  | l :: t => if l.key = x.key then x :: t else l :: putLine x t

def dropLine (key : Nat) (ls : List L1Line) : List L1Line := ls.filter (fun l => decide (l.key ≠ key))

/-- Bytes [i, i + n) of a line. -/
def lineBytes (data : BitVec 256) (i n : Nat) : List Byte := leBytes n (data.toNat / 2 ^ (8 * i))

/-- A line's data with bytes laid from offset i. -/
def lineWith (data : BitVec 256) (i : Nat) (bs : List Byte) : BitVec 256 :=
  let mask : BitVec 256 := BitVec.ofNat 256 ((2 ^ (8 * bs.length) - 1) * 2 ^ (8 * i))
  (data &&& ~~~mask) ||| BitVec.ofNat 256 (leVal bs * 2 ^ (8 * i))

/-- The mask of bytes [i, i + n) of a line. -/
def maskOf (i n : Nat) : BitVec 32 := BitVec.ofNat 32 ((2 ^ n - 1) * 2 ^ i)

/-- The runs of set bits of a mask from bit i up, `n` bits left, `start` the run that is open: start and length of each. -/
def maskRuns (mask : BitVec 32) : Nat → Nat → Option Nat → List (Nat × Nat)
  | 0, _, none => []
  | 0, i, some b => [(b, i - b)]
  | n + 1, i, start =>
    if mask.getLsbD i then maskRuns mask n (i + 1) (some (start.getD i))
    else match start with
      | none => maskRuns mask n (i + 1) none
      | some b => (b, i - b) :: maskRuns mask n (i + 1) none

/-- The writes of a masked line: each run of its bytes is one, so that no element of a store is divided (R263). -/
def maskedWrites (base : Nat) (mask : BitVec 32) (data : BitVec 256) : List (Nat × List Byte) :=
  (maskRuns mask 32 0 none).map (fun r => (base + r.1, lineBytes data r.1 r.2))

def State.homeWrites (s : State) (sites : List Nat) (ws : List (Nat × List Byte)) (bad : NSet := []) : State :=
  ws.foldl (fun s w => s.writeHome false sites w.1 w.2 bad) s

/-- The dirty bytes of a line written to their home; poison of a unit goes with them (R244, R260). -/
def State.cleanBytes (s : State) (tile : Nat) (l : L1Line) : State :=
  let bad := (List.range 4).filter (fun u => l.poison.getLsbD u && decide (l.dirty.extractLsb' (8 * u) 8 ≠ 0))
  s.homeWrites (s.sitesOfTile tile) (maskedWrites (32 * l.key) l.dirty l.data) (bad.map (fun u => 4 * l.key + u))

/-- A line cleaned, or cleaned and dropped. -/
def State.cleanLine (s : State) (tile : Nat) (l : L1Line) (drop : Bool) : State :=
  let s := if l.dirty = 0 then s else s.cleanBytes tile l
  let t := s.tile tile
  s.setTile tile { t with l1 := if drop then dropLine l.key t.l1 else putLine { l with dirty := 0 } t.l1 }

/-- Slots of a tile that a condition names are sent to their homes (R313). -/
def State.sendSome (s : State) (tile : Nat) (p : Contrib → Bool) : State :=
  let t := s.tile tile
  let (out, stay) := t.slots.partition p
  { s with pend := s.pend ++ out }.setTile tile { t with slots := stay }

/-- The lines a tile holds in a set: those with data, and those in update-only state, whose slots it keeps (R244, R313). -/
def State.waysOf (s : State) (tile key : Nat) : List (Nat × Option L1Line) :=
  let t := s.tile tile
  let here (k : Nat) : Bool := k % s.l1Sets tile == key % s.l1Sets tile
  (t.l1.filter (fun l => here l.key)).map (fun l => (l.key, some l))
    ++ ((t.slots.foldl (fun (ks : NSet) c => NSet.insert (c.addr / 32) ks) []).filter here).map (fun k => (k, none))

/-- Room for one more line in the set of `key`: a full set gives up a line, chosen by a free value; a line with data is
cleaned, the slots of an update-only one are sent (R244, R313). -/
def State.l1Room (s : State) (tile key : Nat) : State :=
  let ways := s.waysOf tile key
  if ways.length < 8 then s
  else match ways[Config.l1Victim s.draws % ways.length]? with
    | some (_, some v) => { s with draws := s.draws + 1 }.cleanLine tile v true
    | some (k, none) => { s with draws := s.draws + 1 }.sendSome tile (fun c => decide (c.addr / 32 = k))
    | none => s

/-- An event of a measurement counted on a tile, by its code: what its supervisor code does is not counted (R353, R351). -/
def Tile.event (t : Tile) (code : Nat) : Tile :=
  if t.run.any (·.sup) then t else { t with total := AMap.set t.total (100 + code) (AMap.getD t.total (100 + code) 0 + 1) }

/-- A line brought into L1 (R244): an L1 miss (R353). -/
def State.fillLine (s : State) (tile key : Nat) : State :=
  if (findLine key (s.tile tile).l1).isSome then s
  else
    let s := (s.combine (32 * key) 32).l1Room tile key
    let (s, bs) := s.homeRead (32 * key) 32
    let bad := BitVec.ofNat 4 (((List.range 4).filter (fun u => s.memBad (32 * key + 8 * u) 8)).foldl
      (fun acc u => acc + 2 ^ u) 0)
    let t := s.tile tile
    s.setTile tile <| ({ t with l1 := t.l1 ++ [{ key := key, data := BitVec.ofNat 256 (leVal bs), poison := bad }] } : Tile).event 5

/-- Some unit of [i, i + n) of a line is poisoned. -/
def L1Line.bad (l : L1Line) (i n : Nat) : Bool :=
  (List.range 4).any (fun u => l.poison.getLsbD u && decide (8 * u < i + n) && decide (i < 8 * u + 8))

/-- Bytes of one line read through L1: the state after the fill, the bytes, whether poison was met. -/
def State.l1Read (s : State) (tile a n : Nat) : State × List Byte × Bool :=
  let s := s.fillLine tile (a / 32)
  match findLine (a / 32) (s.tile tile).l1 with
  | some l => (s, lineBytes l.data (a % 32) n, l.bad (a % 32) n)
  | none => (s, List.replicate n 0, false)

/-- Bytes of one line written into L1: they become dirty, the residency count ends (R244, R247). -/
def State.l1Write (s : State) (tile a : Nat) (bs : List Byte) : State :=
  let s := s.fillLine tile (a / 32)
  match findLine (a / 32) (s.tile tile).l1 with
  | some l =>
    let i := a % 32
    let m := maskOf i bs.length
    let pz := (List.range 4).foldl (fun (p : BitVec 4) u =>
      if decide (i ≤ 8 * u) && decide (8 * u + 8 ≤ i + bs.length) then p &&& ~~~(BitVec.ofNat 4 (2 ^ u)) else p) l.poison
    let t := s.tile tile
    s.setTile tile { t with l1 := putLine { l with data := lineWith l.data i bs, dirty := l.dirty ||| m, resid := 0,
                                                   poison := pz } t.l1 }
  | none => s

/-- One load instruction has read these lines: each residency count falls once, and a line at zero goes (R247). -/
def State.l1Touch (s : State) (tile : Nat) (keys : NSet) : State :=
  let t := s.tile tile
  s.setTile tile { t with l1 := t.l1.filterMap (fun l =>
    if l.resid ≠ 0 && keys.contains l.key then (if l.resid = 1 then none else some { l with resid := l.resid - 1 })
    else some l) }

/-- ldrc sets the count of the lines it read (R267). -/
def State.l1Resid (s : State) (tile : Nat) (keys : NSet) (count : Nat) : State :=
  let t := s.tile tile
  s.setTile tile { t with l1 := t.l1.map (fun l => if keys.contains l.key then { l with resid := count } else l) }

/-- The tile's slots go to their homes (R313). -/
def State.sendSlots (s : State) (tile : Nat) : State :=
  let t := s.tile tile
  if t.slots.isEmpty then s
  else { s with pend := s.pend ++ t.slots }.setTile tile { t with slots := [] }

/-- Every dirty line of the tile cleaned (R245), its slots sent. -/
def State.cleanAll (s : State) (tile : Nat) : State :=
  let dirty := (s.tile tile).l1.filter (fun l => decide (l.dirty ≠ 0))
  dirty.foldl (fun s l => s.cleanLine tile l false) (s.sendSlots tile)

/-- A release (R245). At package or system scope every die-hashed write is applied everywhere before it completes (R294).
DEDUCED (log 104): at gang scope too, as a gang's tasks may stand on several dies and R290 has a task that moved see its
own writes. -/
def State.release (s : State) (tile : Nat) (sc : Scope) : State :=
  match sc with
  | .tile => s
  | .die => s.cleanAll tile
  | .gang | .package | .system => (s.cleanAll tile).dhDrain

/-- An acquire at gang scope or wider: dirty lines are cleaned, then every line goes (R245). DEDUCED (log 19). -/
def State.acquire (s : State) (tile : Nat) (sc : Scope) : State :=
  match sc with
  | .tile => s
  | _ =>
    let s := s.cleanAll tile
    let t := s.tile tile
    s.setTile tile { t with l1 := [] }

/-- The release of a write-back at gang scope (R290). -/
def State.releaseGang (s : State) (tile : Nat) : State := s.release tile .gang

end Sys2Proof.Machine
end

