-- ==== Sys2Proof/Machine/Xlate.lean ====
section
/-! DEFINITION. Xlate.lean: the two-stage walk (R253 to R255), translation caches (R256), page attributes (R250, R252),
footprints and regions (R33, R87), fault records and the fault queues (R258, R336, R358). -/
namespace Sys2Proof.Machine

/-- A translation fault (R258). -/
structure XFault where
  va : Nat
  ia : Nat
  kind : Nat
  level : Nat
  acc : Nat
  /-- a poisoned table byte was consumed (R260) -/
  poison : Bool := false
  deriving DecidableEq, Repr

/-- ACC codes of fault records (R258). -/
abbrev accLoad : Nat := 0
abbrev accStore : Nat := 1
abbrev accFetch : Nat := 2
abbrev accAtomic : Nat := 3
abbrev accBargeRd : Nat := 4
abbrev accBargeWr : Nat := 5
abbrev accTable : Nat := 6
/-- ACC of a fault met in reading a stage-1 table: an engine's own code, else 6 (R258, R284). -/
def tableAcc (acc : Nat) : Nat := if acc = 4 ∨ acc = 5 then acc else accTable

/-- What an access needs of the leaves (R255). -/
inductive Need where
  | read | write | fetch
  deriving DecidableEq, Repr

/-! Descriptors (R254). -/

def dType (d : Nat) : Nat := d % 4
def dOA (d : Nat) : Nat := d / 65536 % 2 ^ 36 * 65536

/-- Page bits at a level (R253). -/
def pageBits : Nat → Nat
  | 1 => 42
  | 2 => 29
  | _ => 16

/-- Index of an address at a level (R255). -/
def walkIdx (x lvl : Nat) : Nat :=
  if lvl = 0 then x / 2 ^ 55 % 32 else x / 2 ^ (55 - 13 * lvl) % 8192

/-- A leaf or table descriptor of a stage is well formed at a level (R254). -/
def descOk (stage2 : Bool) (lvl d : Nat) : Bool :=
  let top := d / 2 ^ 52 == 0 && d / 2 ^ 12 % 16 == 0
  if dType d = 1 then
    top && decide (1 ≤ lvl) && dOA d % 2 ^ pageBits lvl == 0
      && (if stage2 then (d / 16 % 4 == 2 || d / 64 % 64 == 0) else d / 32 % 2 == 0 && d / 64 % 64 == 0)
  else dType d == 3 && decide (lvl ≤ 2) && top && d / 4 % 1024 == 0

/-- A walk that ends in a leaf: output address, leaf, level; or why it failed: level, poison. -/
inductive Walked where
  | leaf (out desc lvl : Nat)
  | bad (lvl : Nat) (poison : Bool)
  | table2 (f : XFault)
  deriving DecidableEq, Repr

/-- A table entry as a walk reads it at its home, contributions combined (R255, R314); `State.walked` is what they then come to. -/
def State.descAt (s : State) (die a : Nat) : Nat := (s.homeRead (physKey die a) 8).1.mem.readLE (physKey die a) 8

/-- Stage 2 from a table at a level, `n` levels left (R255). -/
def State.walk2From (s : State) (die x : Nat) : Nat → Nat → Nat → Walked
  | 0, _, lvl => .bad lvl false
  | n + 1, t, lvl =>
    let a := t + 8 * walkIdx x lvl
    if s.memBad (physKey die a) 8 then .bad lvl true
    else
      let d := s.descAt die a
      if !descOk true lvl d then .bad lvl false
      else if dType d = 1 then .leaf (dOA d + x % 2 ^ pageBits lvl) d lvl
      else s.walk2From die x n (dOA d) (lvl + 1)

/-- Slice policy and address of a stage-2 leaf (R250, R255): the kind of the fault, or none. DESIGN CHOICE (log 136): a PSLICE outside
the polder faults with kind 5, as a leaf of no policy does. -/
def State.policyFault (s : State) (polder : Nat) (pa d : Nat) : Option Nat :=
  let slp := d / 16 % 4
  let repl := decide (2 ^ 51 ≤ pa)
  if slp = 3 || (slp = 1 && !repl) || (slp ≠ 1 && repl) then some 5
  else
    match s.polder? polder with
    | none => some 6
    | some p =>
      if slp = 2 && !p.slices.contains (d / 64 % 64) then some 5
      else if !Config.backed p.quads (p.memcfg.toNat / 65536 % 256) pa then some 6
      else none

/-- Stage 2 of an intermediate address: physical address, leaf and level, or the fault (R255). -/
def State.walk2 (s : State) (job : Job) (die ia va acc : Nat) (need : Need) : Except XFault (Nat × Nat × Nat) :=
  match s.walk2From die ia 4 job.s2root 0 with
  | .bad lvl p => .error ⟨va, ia, if p then 6 else 3, lvl, acc, p⟩
  | .table2 f => .error f
  | .leaf pa d lvl =>
    if (need = .write && d / 4 % 2 = 0) || (need = .fetch && d / 8 % 2 = 0) then .error ⟨va, ia, 4, lvl, acc, false⟩
    else
      match s.policyFault job.polder pa d with
      | some k => .error ⟨va, ia, k, lvl, acc, false⟩
      | none => .ok (pa, d, lvl)

/-- Stage 1 from a table at an intermediate address (R253, R255): every table is itself translated by stage 2. -/
def State.walk1From (s : State) (job : Job) (die va acc : Nat) : Nat → Nat → Nat → Walked
  | 0, _, lvl => .bad lvl false
  | n + 1, t, lvl =>
    match s.walk2 job die (t + 8 * walkIdx va lvl) va (tableAcc acc) .read with
    | .error f => .table2 f
    | .ok (a, _, _) =>
      if s.memBad (physKey die a) 8 then .table2 ⟨va, t + 8 * walkIdx va lvl, 6, lvl, tableAcc acc, true⟩
      else
        let d := s.descAt die a
        if !descOk false lvl d then .bad lvl false
        else if dType d = 1 then .leaf (dOA d + va % 2 ^ pageBits lvl) d lvl
        else s.walk1From job die va acc n (dOA d) (lvl + 1)

/-- The intermediate pages of the stage-1 tables that a walk reads (R255). -/
def State.walk1Pages (s : State) (job : Job) (die va : Nat) : Nat → Nat → Nat → List Nat
  | 0, _, _ => []
  | n + 1, t, lvl =>
    let ia := t + 8 * walkIdx va lvl
    ia / 65536 :: (match s.walk2 job die ia va accTable .read with
      | .error _ => []
      | .ok (a, _, _) =>
        let d := s.descAt die a
        if descOk false lvl d && dType d == 3 then s.walk1Pages job die va n (dOA d) (lvl + 1) else [])

/-- Both stages (R255). -/
def State.walk (s : State) (jid : Nat) (job : Job) (die va acc : Nat) (need : Need) : Except XFault Xlat :=
  match s.walk1From job die va acc 4 job.s1root 0 with
  | .table2 f => .error f
  | .bad lvl p => .error ⟨va, 0, 1, lvl, acc, p⟩
  | .leaf ia d1 lvl1 =>
    if (need = .write && d1 / 4 % 2 = 0) || (need = .fetch && d1 / 8 % 2 = 0) then .error ⟨va, 0, 2, lvl1, acc, false⟩
    else
      match s.walk2 job die ia va acc need with
      | .error f => .error f
      | .ok (pa, d2, _) =>
        .ok { job := jid, vpage := va / 65536, ipage := ia / 65536, ppage := pa / 65536, w1 := d1 / 4 % 2 == 1,
              w2 := d2 / 4 % 2 == 1, x1 := d1 / 8 % 2 == 1, x2 := d2 / 8 % 2 == 1, nl1 := d1 / 16 % 2 == 1,
              slp := d2 / 16 % 4, pslice := d2 / 64 % 64
              tables := s.walk1Pages job die va 4 job.s1root 0 }

/-- The home addresses of the stage-2 descriptors that a walk reads. -/
def State.walk2Reads (s : State) (die x : Nat) : Nat → Nat → Nat → List Nat
  | 0, _, _ => []
  | n + 1, t, lvl =>
    let a := t + 8 * walkIdx x lvl
    let d := s.descAt die a
    physKey die a :: (if !s.memBad (physKey die a) 8 && descOk true lvl d && dType d == 3 then s.walk2Reads die x n (dOA d) (lvl + 1) else [])

/-- Those of both stages. -/
def State.walkReads (s : State) (job : Job) (die va : Nat) : Nat → Nat → Nat → List Nat
  | 0, _, _ => []
  | n + 1, t, lvl =>
    let ia := t + 8 * walkIdx va lvl
    s.walk2Reads die ia 4 job.s2root 0 ++ (match s.walk2 job die ia va accTable .read with
      | .error _ => []
      | .ok (a, _, _) =>
        let d := s.descAt die a
        physKey die a :: (if s.memBad (physKey die a) 8 || !descOk false lvl d then []
          else if dType d = 1 then s.walk2Reads die (dOA d + va % 2 ^ pageBits lvl) 4 job.s2root 0
          else s.walkReads job die va n (dOA d) (lvl + 1)))

/-- A walk's reads at the home have combined the contributions to every descriptor that it read (R255, R314). -/
def State.walked (s : State) (jid die va : Nat) : State :=
  if s.pend.isEmpty && s.tiles.all (fun e => e.2.slots.isEmpty) then s
  else match s.job? jid with
    | some j => (s.walkReads j die va 4 j.s1root 0).foldl (fun (s : State) a => s.combine a 8) s
    | none => s

def Xlat.permits (x : Xlat) : Need → Bool
  | .read => true
  | .write => x.w1 && x.w2
  | .fetch => x.x1 && x.x2

/-- The physical key of an address under an entry. -/
def Xlat.key (x : Xlat) (die va : Nat) : Nat := physKey die (x.ppage * 65536 + va % 65536)

def lookTlb (job vpage : Nat) (need : Need) (l : List Xlat) : Option Xlat :=
  l.find? (fun x => decide (x.job = job) && decide (x.vpage = vpage) && x.permits need)

/-- The translation of an address for a tile: its own entries, its quadrant's, else a walk (R256). A walk decides every
fault, so a cached entry that lacks a right never faults. -/
def State.translate (s : State) (tile jid va acc : Nat) (need : Need) : Except XFault Xlat :=
  match lookTlb jid (va / 65536) need (s.tile tile).tlb with
  | some x => .ok x
  | none =>
    match lookTlb jid (va / 65536) need (AMap.getD s.qtlb (quadOf tile) []) with
    | some x => .ok x
    | none =>
      match s.job? jid with
      | none => .error ⟨va, 0, 1, 0, acc, false⟩
      | some j => s.walk jid j (s.siteOf tile) va acc need

/-- A completed translation enters the caches of the tile, of 256 entries, and its quadrant, of 8,192 (R256, log 20): a translation
miss of the tile (R353). -/
def State.cacheXlat (s : State) (tile : Nat) (x : Xlat) : State :=
  let t := s.tile tile
  if t.tlb.contains x then s
  else
    let q := quadOf tile
    let other (y : Xlat) : Bool := !(decide (y.job = x.job) && decide (y.vpage = x.vpage))
    let tl := t.tlb.filter other
    let ql := (AMap.getD s.qtlb q []).filter other
    let all (_ : Xlat) : Bool := true
    { s with
      draws := if placeFull 256 all tl || placeFull 8192 all ql then s.draws + 2 else s.draws
      qtlb := AMap.set s.qtlb q (x :: makeRoom 8192 (Config.cacheVictim (s.draws + 1)) all ql) }.setTile tile
      <| ({ t with tlb := x :: makeRoom 256 (Config.cacheVictim s.draws) all tl } : Tile).event 13

/-- What an access that needed a translation leaves in the caches, and, where none of them held it, of its walk (R256, R314). -/
def State.fillXlat (s : State) (tile jid va : Nat) (need : Need) (x : Xlat) : State :=
  let held := (lookTlb jid (va / 65536) need (s.tile tile).tlb).isSome
    || (lookTlb jid (va / 65536) need (AMap.getD s.qtlb (quadOf tile) [])).isSome
  (if held then s else s.walked jid (s.siteOf tile) va).cacheXlat tile x

/-- Entries that a condition names leave every cache (R257, R259). -/
def State.dropXlats (s : State) (p : Xlat → Bool) : State :=
  { s with
    qtlb := s.qtlb.map (fun e => (e.1, e.2.filter (fun x => !p x)))
    tiles := s.tiles.map (fun e => (e.1, { e.2 with tlb := e.2.tlb.filter (fun x => !p x) })) }

/-! Slices (R250). -/

/-- XOR of the groups of `w` bits of PA from bit 7 up, `n` of them. -/
def hashBits (w pa : Nat) : Nat → Nat
  | 0 => 0
  | n + 1 => (pa / 2 ^ (7 + w * n) % 2 ^ w) ^^^ hashBits w pa n

def hashHd (pa : Nat) : Nat := hashBits 4 (pa % 2 ^ 52) 11 ^^^ (pa / 2 ^ 51 % 2)
def hashHp (pa : Nat) : Nat := hashBits 6 (pa % 2 ^ 52) 8

/-- The home slice of a physical address for a requester at a site (R250). -/
def homeSlice (p : Polder) (x : Xlat) (site pa : Nat) : Nat :=
  if x.slp = 2 then x.pslice
  else if x.slp = 1 then
    let d := p.slices.filter (fun sl => sl / 16 == site % 4)
    d.getD (hashHd pa % d.length) 0
  else p.slices.getD (hashHp pa % p.slices.length) 0

/-! The regions a task may reach (R33, R87, R242). -/

/-- The place a data byte lies in. -/
inductive Place where
  | badAddr | window (o : Nat) | gap | jcb (o : Nat) | foot (k : FKind) | const | outside
  deriving DecidableEq, Repr

def inRegions (rs : List Region) (va : Nat) : Bool := rs.any (fun r => decide (r.base ≤ va) && decide (va < r.base + r.len))

def findFoot (va : Nat) : List Foot → Option FKind
  | [] => none
  | f :: t => if f.base ≤ va ∧ va < f.base + f.len then some f.kind else findFoot va t

/-- What a byte address names for a footprint and constant regions (R242, R33, R35). -/
def placeOf (foot : List Foot) (consts : List Region) (va : Nat) : Place :=
  if 2 ^ 60 ≤ va then .badAddr
  else if Config.jcbBase ≤ va then .jcb (va - Config.jcbBase)
  else if Config.spEnd ≤ va then .gap
  else if Config.spBase ≤ va then .window (va - Config.spBase)
  else match findFoot va foot with
    | some k => .foot k
    | none => if inRegions consts va then .const else .outside

/-! Translation faults posted (R258). -/

/-- The function a translation fault goes to (R258). -/
def faultFn (job kind : Nat) : Nat := if kind ≤ 2 then job else 0

/-- A translation fault posted, awaiting a reply (R258, R259). -/
def State.postXlate (s : State) (f : XFault) (job gang task tile seq : Nat) (target : AwaitFor) : State × Nat × Nat :=
  let s := s.walked job (s.siteOf tile) f.va
  let fnum := faultFn job f.kind
  let (s, num) := s.postFault fnum (faultRecord f.va (if 3 ≤ f.kind then f.ia else 0) task gang f.kind f.acc f.level tile job
    seq s.ccy.toNat)
  let x := s.fn fnum
  (s.setFn fnum { x with awaits := x.awaits ++ [⟨num, target, f.kind, f.va, f.ia⟩] }, fnum, num)

end Sys2Proof.Machine
end

