-- ==== Sys2Proof/Machine/Gangs.lean ====
section
/-! DEFINITION. Gangs.lean: device accesses at job addresses, the job control block (R35), records in queues (R17, R407),
staged entries (R298 to R303), status records (R41), HEAD (R38), containment (R335), uncorrectable errors (R330), rollback
(R333). -/
namespace Sys2Proof.Machine

/-! Device accesses at job virtual addresses: walked, not cached, a whole access or none. -/

/-- The home key of a job address, for a requester at a site. -/
def State.devKey (s : State) (jid site va acc : Nat) (need : Need) : Except XFault Nat :=
  match s.job? jid with
  | none => .error ⟨va, 0, 1, 0, acc, false⟩
  | some j =>
    if Config.jcbBase ≤ va ∧ va < 2 ^ 60 then .ok (j.jcbpa + (va - Config.jcbBase))
    else if 2 ^ 60 ≤ va then .error ⟨va, 0, 1, 0, acc, false⟩
    else match s.walk jid j site va acc need with
      | .ok x => .ok (x.key site va)
      | .error f => .error f

/-- [va, va + n) cut at 64 KiB pages: first address and length of each piece. -/
def pagePieces : Nat → Nat → Nat → List (Nat × Nat)
  | 0, _, _ => []
  | fuel + 1, va, n =>
    if n = 0 then []
    else let k := min n (65536 - va % 65536); (va, k) :: pagePieces fuel (va + k) (n - k)

def pieces (va n : Nat) : List (Nat × Nat) := pagePieces (n / 65536 + 2) va n

/-- The sites of a job's polder. -/
def State.jobSites (s : State) (jid : Nat) : List Nat :=
  match s.job? jid with
  | some j => ((s.polder? j.polder).map (fun p => p.sites j.polder)).getD [0]
  | none => [0]

/-- A site of the job's polder, where its dispatcher acts. -/
def State.jobSite (s : State) (jid : Nat) : Nat := (s.jobSites jid).headD 0

/-- A device read of job memory; the fault of the lowest page that does not translate. -/
def State.devRead (s : State) (jid site va n acc : Nat) : Except XFault (State × List Byte) :=
  (pieces va n).foldlM (fun (st : State × List Byte) p => do
    let k ← st.1.devKey jid site p.1 acc .read
    let (s', bs) := (st.1.walked jid site p.1).homeRead k p.2
    pure (s', st.2 ++ bs)) (s, [])

/-- A field of the control block; in the job-written area with the reductions still pending there (R313). -/
def State.jcb (s : State) (j : Job) (off n : Nat) : Nat :=
  (if off < 0x100 then s.combine (j.jcbpa + off) n else s).mem.readLE (j.jcbpa + off) n
def State.setJcb (s : State) (j : Job) (off n v : Nat) : State := { s with mem := s.mem.writeLE (j.jcbpa + off) n v }

def Gang.live (g : Gang) : Bool := g.phase == .waiting || g.phase == .running || g.phase == .retired
def Job.liveGangs (j : Job) : List (Nat × Gang) := j.gangs.filter (fun e => e.2.live)

/-- Bytes [o, o + n) of the control block have been stored to: READYQ, READYQN, SPILLB and SPILLN come into force as they then
stand while no gang is live; at any other time the change is ignored (R36). -/
def State.tookQ (s : State) (jid o n : Nat) : State :=
  match s.job? jid with
  | none => s
  | some j =>
    let now (off len old : Nat) : Nat := if off < o + n ∧ o < off + len then s.jcb j off len else old
    if !j.liveGangs.isEmpty then s
    else s.setJob jid { j with readyQ := now 0x20 8 j.readyQ, readyQN := now 0x28 4 j.readyQN, spillB := now 0x30 8 j.spillB,
                               spillN := now 0x38 8 j.spillN }

/-- A device write of job memory: every page is checked before any byte is written. -/
def State.devWrite (s : State) (jid site va acc : Nat) (bs : List Byte) : Except XFault State := do
  let ps ← (pieces va bs.length).mapM (fun p => do let k ← s.devKey jid site p.1 acc .write; pure (k, p.1 - va, p.2))
  let s := (pieces va bs.length).foldl (fun (s : State) p => s.walked jid site p.1) s
  let s := ps.foldl (fun s p => s.homeWrite (s.jobSites jid) p.1 ((bs.drop p.2.1).take p.2.2)) s
  pure (if Config.jcbBase ≤ va then s.tookQ jid (va - Config.jcbBase) bs.length else s)

/-! The job control block (R35). -/

def State.ceilPrio (s : State) (j : Job) : Nat := s.jcb j 0x109 1
def Job.weightOf (j : Job) : Nat := max 1 j.weight
def State.handlerOf (s : State) (j : Job) : Nat := s.jcb j 0 8

/-- Limits of the job-written area (R29, R35). -/
def State.areaOk (s : State) (j : Job) : Bool :=
  let rqn := s.jcb j 0x28 4
  let h := word (s.jcb j 0 8)
  s.jcb j 0x20 8 % 256 == 0 && s.jcb j 0x30 8 % 64 == 0 && s.jcb j 0x18 8 % 16 == 0 && s.jcb j 8 8 % 16 == 0
    && decide (64 ≤ rqn) && decide (rqn ≤ 2 ^ 20) && rqn == 2 ^ rqn.log2
    && decide (1 ≤ s.jcb j 0x14 4) && decide (s.jcb j 0x14 4 ≤ 64) && decide (s.jcb j 0x10 4 ≤ 64)
    && (h == 0 || cpOk h) && s.jcb j 0x2C 4 == 0 && s.jcb j 0x40 192 == 0

/-- Handler frame ring (R76) and retirement area (R344). -/
def Job.ring (j : Job) : Nat := j.readyQ + j.readyQN * 64
def Job.retArea (j : Job) : Nat := j.ring + 0x18000

/-- A table of regions: 16-byte entries of base and length (R35). -/
def State.regionTable (s : State) (jid ptr n : Nat) : Except XFault (List Region) := do
  let (_, bs) ← s.devRead jid (s.jobSite jid) ptr (16 * n) accLoad
  pure ((List.range n).map (fun i => ⟨fieldAt bs (16 * i) 8, fieldAt bs (16 * i + 8) 8⟩))

/-! Error and metering counters (R341, R351). -/

def satAdd (a b : Nat) : Nat := min (2 ^ 64 - 1) (a + b)

def State.jobErr (s : State) (jid k : Nat) : State :=
  match s.job? jid with
  | some j => s.setJob jid { j with errs := AMap.set j.errs k (satAdd (AMap.getD j.errs k 0) 1) }
  | none => s

/-- A counter of the polder that holds a quadrant; index 10 is UNATTR. -/
def State.polderErr (s : State) (q k : Nat) : State :=
  match s.polderOfQuad q with
  | some (id, p) => s.setPolder id { p with errs := AMap.set p.errs k (satAdd (AMap.getD p.errs k 0) 1) }
  | none => s

/-- An error in a tile's resource counts to its owner, else to the polder (R341). -/
def State.tileErr (s : State) (n k : Nat) : State :=
  match (s.tile n).owner with
  | .job j => s.jobErr j k
  | .transit j => s.jobErr j k
  | _ => s.polderErr (quadOf n) k

def Tile.count (t : Tile) (k d : Nat) : Tile :=
  { t with meter := AMap.set t.meter k (AMap.getD t.meter k 0 + d), total := AMap.set t.total k (AMap.getD t.total k 0 + d) }
/-- What an instruction counts: supervisor code is not counted (R351). -/
def Tile.tally (t : Tile) (k d : Nat) : Tile := if t.run.any (·.sup) then t else t.count k d
def State.countOn (s : State) (n k d : Nat) : State := s.setTile n ((s.tile n).count k d)

/-- An addition to counter k of a job's control block, with SATMASK (R351). -/
def State.addCounter (s : State) (j : Job) (k d : Nat) : State :=
  let old := s.jcb j (0x400 + 8 * k) 8
  let s := s.setJcb j (0x400 + 8 * k) 8 (satAdd old d)
  if 2 ^ 64 ≤ old + d then s.setJcb j 0x400 8 (s.jcb j 0x400 8 ||| 2 ^ k) else s

/-- A tile a job owns, in transit or not (R61). -/
def ownedBy (o : Owner) (j : Nat) : Bool := o == Owner.job j || o == Owner.transit j

/-- The local sums of a job's tiles added to its control block, and the copy kept (R351, R338). -/
def State.flushMeter (s : State) (jid : Nat) : State :=
  match s.job? jid with
  | none => s
  | some j =>
    let mine := s.tiles.filter (fun e => ownedBy e.2.owner jid)
    let s := ({ s with draws := s.draws + 2 }.addCounter j 32 (Config.hbmBytes s.draws)).addCounter j 33 (Config.hbmBytes (s.draws + 1))
    let s := mine.foldl (fun s e => e.2.meter.foldl (fun s c => s.addCounter j c.1 c.2) s) s
    let s := { s with tiles := s.tiles.map (fun (e : Nat × Tile) =>
      if ownedBy e.2.owner jid then (e.1, { e.2 with meter := [] }) else e) }
    s.setJob jid { j with flushed := s.ccy.toNat, copy := (List.range 64).map (fun k => (k, s.jcb j (0x400 + 8 * k) 8)) ++
      [(64, s.jcb j 0x200 4), (65, s.jcb j 0x208 8), (66, s.jcb j 0x210 8), (67, s.jcb j 0x218 8)] }

/-! What a task may reach. -/

def Run.gid (r : Run) : Nat := r.rcd.gang.toNat
def Run.border (r : Run) : Bool := r.rcd.handler
def Run.taskAddr (r : Run) : Nat := r.rcd.addr
def State.runGang (s : State) (r : Run) : Option Gang := if r.border then none else s.gang? r.job r.gid

def Job.upcallOf (j : Job) (addr : Nat) : Option Upcall := j.upcalls.find? (fun u => decide (u.addr = addr))

/-- The footprint of a task; in the border context the PRIV regions of live gangs and the frame ring (R74). -/
def State.footOf (s : State) (r : Run) : List Foot :=
  if r.border then
    match s.job? r.job with
    | some j => ⟨j.ring, 16 * 0x1800, .priv⟩ :: j.liveGangs.flatMap (fun e => e.2.foot.filter (fun f => f.kind == .priv))
    | none => []
  else match s.runGang r with
    | some g => g.foot
    | none => []

def State.constsOf (s : State) (r : Run) : List Region :=
  if r.border then
    match (s.job? r.job).bind (·.upcallOf r.taskAddr) with
    | some u => u.consts
    | none => []
  else match s.runGang r with
    | some g => g.consts
    | none => []

def State.codeOf (s : State) (r : Run) : List Region :=
  if r.border then
    match (s.job? r.job).bind (·.upcallOf r.taskAddr) with
    | some u => u.code
    | none => []
  else match s.runGang r with
    | some g => g.code
    | none => []

/-! Status records, HEAD. -/

/-- A status record (R41); a write that faults is dropped and counted in BADWR of the stream. -/
def State.writeStatus (s : State) (jid sn stat status gang ticket ctag : Nat) : State :=
  if stat = 0 then s
  else
    let bs := leBytes 4 status ++ (leBytes 4 gang ++ (leBytes 6 ticket ++ (leBytes 1 sn ++ (leBytes 1 0 ++
      (leBytes 8 ctag ++ leBytes 8 s.ccy.toNat)))))
    match s.devWrite jid (s.jobSite jid) stat accStore bs with
    | .ok s => s
    | .error _ =>
      match s.job? jid with
      | some j => let st := j.stream sn
                  s.setJob jid (j.setStream sn { st with badwr := if st.badwr = BitVec.allOnes 32 then st.badwr else st.badwr + 1 })
      | none => s

/-- The lowest ticket from `t` up, of `n`, whose holder is neither committed nor voided; else TAIL + 1 (R38). -/
def Job.nextHead (j : Job) (sn tail : Nat) : Nat → Nat → Nat
  | 0, t => t
  | n + 1, t =>
    if tail < t then t
    else if j.gangs.any (fun e => e.2.stream == sn && e.2.ticket == t && e.2.live)
        || j.colls.any (fun c => c.stream == sn && c.ticket == t) then t
    else j.nextHead sn tail n (t + 1)

/-- The gang of a ticket in one opening of a stream has been voided, or its collective has ended FAILED (R44, R335, R380). -/
def Job.voided (j : Job) (sn epoch ticket : Nat) : Bool :=
  (decide ((j.stream sn).epoch = epoch) && (j.stream sn).lost.contains ticket) || j.gangs.any (fun e => e.2.stream == sn && e.2.opening == epoch && e.2.ticket == ticket && e.2.phase == .voided)

/-- HEAD recomputed; a stream under containment closes once HEAD = TAIL + 1 (R335). AFTV waits end where their ticket has committed
(R44). -/
def State.fixHead (s : State) (jid sn : Nat) : State :=
  match s.job? jid with
  | none => s
  | some j =>
    let st := j.stream sn
    if !st.opened then s
    else
      let h := j.nextHead sn st.tail (st.tail + 1 - st.head) st.head
      let void (k : Nat) : Bool := j.voided sn st.epoch k
      let st := { st with head := h }
      let st := if st.containing && h == st.tail + 1 then { st with opened := false, containing := false } else st
      s.setJob jid { j.setStream sn st with gangs := j.gangs.map (fun (e : Nat × Gang) => (e.1,
        if e.2.desc.afts = sn && e.2.aftEpoch = st.epoch && e.2.desc.afttk < h && !void e.2.desc.afttk then { e.2 with aftDone := true } else e.2)) }

/-! The write set of a measured gang (R354). -/

/-- Pages of the write set. -/
def Meas.size (m : Meas) : Nat :=
  (m.pages.foldl (fun (l : NSet) e => NSet.insert (e.1 % 2 ^ 36) l) []).length + (if m.jcb.isSome then 1 else 0)

/-- Before the first write of pass 1 to a 64 KiB page, the bytes of all its copies are kept, up to WSMAX pages. -/
def Meas.note (m : Meas) (mem : Memory) (ks : List Nat) : Meas :=
  let page (k : Nat) : Nat := k / 65536 % 2 ^ 36
  if m.pass ≠ 1 || ks.any (fun k => m.pages.any (fun e => decide (e.1 % 2 ^ 36 = page k))) then m
  else if m.wsmax ≤ m.size then { m with wsfull := true }
  else { m with pages := m.pages ++ ks.map (fun k => (k / 65536, mem.near (65536 * (k / 65536)) 65536)) }

/-- The same for the page of the control block. DESIGN CHOICE (log 143): the one part of it that a gang can write, the job-written area, is
kept and comes back; the counters and the rest are the hardware's and go on (R355). -/
def Meas.noteJcb (m : Meas) (bs : List Byte) : Meas :=
  if m.pass ≠ 1 || m.jcb.isSome then m
  else if m.wsmax ≤ m.size then { m with wsfull := true }
  else { m with jcb := some bs }

/-- The keys of every copy of the byte a key names (R252). -/
def State.copiesOf (s : State) (jid k : Nat) : List Nat :=
  match keySite k with
  | none => [k]
  | some _ => (s.jobSites jid).map (fun d => physKey d (k % 2 ^ 52))

/-- The pages of a write noted, with the reductions that are still pending for them. -/
def State.notePage (s : State) (jid gid k : Nat) : State :=
  match s.gang? jid gid with
  | some g => (match g.meas with
    | some m => s.setGang jid gid { g with meas := some (m.note s.settledMem (s.copiesOf jid k)) }
    | none => s)
  | none => s

/-- A write to the control block noted. -/
def State.noteJcb (s : State) (jid gid : Nat) : State :=
  match s.job? jid, s.gang? jid gid with
  | some j, some g => (match g.meas with
    | some m => s.setGang jid gid { g with meas := some (m.noteJcb (s.settledMem.readBytes j.jcbpa 0x100)) }
    | none => s)
  | _, _ => s

/-- Bytes of a task's record or frame written by hardware, a write of its gang (R354, R408). -/
def State.taskWrite (s : State) (jid site : Nat) (r : Record) (va : Nat) (bs : List Byte) : Except XFault State :=
  let s := [va, va + bs.length - 1].foldl (fun (s : State) a => match s.devKey jid site a accStore .write with
    | .ok k => if r.handler then s else s.notePage jid r.gang.toNat k
    | .error _ => s) s
  s.devWrite jid site va accStore bs

/-! Records in queues (R16, R17, R407). -/

/-- The gang named by a record of a job. -/
def State.recGang (s : State) (jid : Nat) (r : Record) : Option Gang :=
  if r.handler then none else s.gang? jid r.gang.toNat

/-- Posts a record to the job's function and to the physical function (R336). -/
def State.postBoth (s : State) (jid : Nat) (r : List Byte) : State :=
  let s := (s.postFault jid r).1
  (s.postFault 0 r).1

/-- A fault on the frame at a record address (R408): the record of R258 is posted, and no tile takes the task's record until
the reply. -/
def State.frameHold (s : State) (n jid gang addr seq : Nat) (f : XFault) : State :=
  let s := (s.postXlate f jid gang addr n seq (.frame jid addr n)).1
  match s.job? jid with
  | some j => s.setJob jid { j with blocked := NSet.insert addr j.blocked }
  | none => s

/-- A record that finds the ready queue full and whose address does not translate: its write waits for the reply (R17, R408).
DESIGN CHOICE (log 118): TILE of the fault record is 0xFFFF where no tile makes the access. -/
def State.holdReady (s : State) (jid : Nat) (r : Record) (front : Bool) (f : XFault) : State :=
  let s := s.frameHold 0xFFFF jid r.gang.toNat r.addr r.seq.toNat f
  match s.job? jid with
  | some j => s.setJob jid { j with unwritten := j.unwritten ++ [⟨r, front⟩] }
  | none => s

/-- A record's bytes laid in the first of `n` places of 64 bytes from `base` that none of the job's records takes; a place that
does not translate takes none (R17, R407, log 30). -/
def State.layRecord (s : State) (jid : Nat) (r : Record) (base n : Nat) : State :=
  match s.job? jid with
  | none => s
  | some j =>
    let free (k : Nat) : Bool := !j.images.any (fun e => decide (e.2 = .mem (base + 64 * k)) && decide (e.1 ≠ r.addr))
    let bs := match AMap.get? j.images r.addr with
      | some (.hard bs) => bs
      | _ => r.bytes
    match (List.range n).find? free with
    | none => s
    | some k => match s.taskWrite jid (s.jobSite jid) r (base + 64 * k) bs with
      | .ok s' => (match s'.job? jid with
        | some j => s'.setJob jid { j with images := AMap.set j.images r.addr (.mem (base + 64 * k)) }
        | none => s)
      | .error _ => s

/-- A record put into the ready queue (R17). -/
def State.enqueue (s : State) (jid : Nat) (r : Record) (front : Bool) : State :=
  match s.job? jid with
  | none => s
  | some j => (s.setJob jid { j with ready := if front then r :: j.ready else j.ready ++ [r] }).layRecord jid r j.readyQ j.readyQN

/-- A record that has come among the 32 nearest the head is held in hardware, as it stood in its place of the spill share, which
is free again (R407); it is checked when a tile takes it (R14). A place that does not translate leaves what hardware laid there
(log 30). -/
def State.fetchSpilled (s : State) (jid : Nat) (r : Record) : State :=
  match (s.job? jid).bind (fun j => AMap.get? j.images r.addr) with
  | some (.mem va) =>
    let (s, x) : State × Option RecPlace := match s.devRead jid (s.jobSite jid) va 64 accLoad with
      | .ok (s, bs) => (s, if bs = r.bytes then none else some (.hard bs))
      | .error _ => (s, none)
    (match s.job? jid with
    | some j => s.setJob jid { j with images := match x with
        | some x => AMap.set j.images r.addr x
        | none => AMap.erase j.images r.addr }
    | none => s)
  | _ => s

/-- A deque's records in their places: the 32 nearest the head in hardware, the others in the tile's spill share (R407). -/
def State.settleDeque (s : State) (jid n : Nat) : State :=
  let d := (s.tile n).deque
  let s := (d.take 32).foldl (fun (s : State) r => s.fetchSpilled jid r) s
  (d.drop 32).foldl (fun (s : State) r =>
    match s.job? jid with
    | some j => (match AMap.get? j.images r.addr with
      | some (.mem _) => s
      | _ => s.layRecord jid r j.spillB j.spillN)
    | none => s) s

/-- The deque of a tile set (R407). -/
def State.putDeque (s : State) (n : Nat) (d : List Record) : State :=
  let t := s.tile n
  let s := s.setTile n { t with deque := d }
  match t.owner with
  | .job jid | .transit jid => s.settleDeque jid n
  | _ => s

/-- The deques of a job after records have gone from them (R407). -/
def State.settleDeques (s : State) (jid : Nat) : State :=
  match s.job? jid with
  | some j =>
    if j.images.isEmpty then s
    else (s.tiles.filter (fun e => ownedBy e.2.owner jid)).foldl (fun (s : State) e => s.settleDeque jid e.1) s
  | none => s

/-- Requests withdrawn from the engines and from the FIFOs of their tiles (R285, R335). -/
def State.dropBarges (s : State) (p : Barge → Bool) : State :=
  let ids := (s.barges.filter p).map (·.id)
  { s with barges := s.barges.filter (fun b => !p b)
           tiles := s.tiles.map (fun (e : Nat × Tile) => (e.1, { e.2 with fifo := e.2.fifo.filter (fun k => !ids.contains k) })) }

/-- A job's lists without what names the record addresses of some tasks. -/
def Job.forget (j : Job) (gone : Nat → Bool) : Job :=
  { j with pending := j.pending.filter (fun p => !gone p.addr)
           unwritten := j.unwritten.filter (fun p => !gone p.rcd.addr)
           images := j.images.filter (fun p => !gone p.1)
           susp := j.susp.filter (fun p => !gone p.addr)
           carry := j.carry.filter (fun p => !gone p.addr)
           blocked := j.blocked.filter (fun a => !gone a)
           pool := j.pool.filter (fun p => !gone p.1) }

/-- An upcall task gone: its frame is free. -/
def Job.freeUpcall (j : Job) (addr : Nat) : Job :=
  { j.forget (fun a => decide (a = addr)) with upcalls := j.upcalls.filter (fun u => decide (u.addr ≠ addr)) }

/-! Rollback (R330 to R333). -/

/-- A gang journals (R331). -/
def Gang.journalsOn (g : Gang) : Bool := g.desc.cls == 2 && g.desc.snapb != 0

/-- Units of SNAPB a root's tile has used: 256 bytes each, a tile register 128, an accumulator 256, a TCFG one (R221). -/
def journalCost (units mregs : NSet) : Nat :=
  units.length + (mregs.map (fun k => if k < 8 then 128 else if k < 10 then 256 else 1)).foldl (· + ·) 0

/-- The matrix register that holds a unit of 8 bytes of matrix state, as a journal numbers it (R326, R331). -/
def matReg (u : Nat) : Nat :=
  if u < 0x8000 then u / 0x1000 else if u < 0xC000 then 8 + (u - 0x8000) / 0x2000 else 10 + (u - 0xC000)

/-- Tasks that have not executed done. -/
def Gang.liveTasks (g : Gang) : List TaskInfo := g.tasks.filter (fun t => t.owes.isNone)

/-- The superstep is restorable (R332). -/
def State.restorable (s : State) (g : Gang) : Bool :=
  g.journalsOn && !g.norestore && !g.journals.isEmpty && g.liveTasks.all (fun t => t.root.isSome)
    && g.placed.all (fun n => decide (journalCost (s.tile n).units (s.tile n).mregs ≤ g.desc.snapb))
    && g.journals.all (fun j => decide (journalCost j.units j.mregs ≤ g.desc.snapb))

/-- One root's tile restored from its journal (R333 steps 1, 2, 4, 6). QCOUNT is what it was at the resume point, where the sstep that
closed the superstep before has been counted in the quantum it ended in (R53); a pre-emption of the gang that is pending stays so
(R327). The resumption is an acquire at gang scope (R290), which covers that of an sstep the root still waits in (R289). -/
def State.restoreRoot (s : State) (jid n : Nat) (g : Gang) (j : Journal) (held : TaskInfo → Record) : State :=
  let s := s.acquire n .gang
  let t := s.tile n
  let task := g.tasks.find? (fun x => x.root == some j.root)
  match task with
  | none => s
  | some x =>
    let away : Option Record := t.root.map (fun (w : RootWait) => w.rcd)
    let here : Option Record := match t.run, t.root with
      | some r, _ => if decide (r.job = jid) && decide (r.rcd.addr = x.addr) then some r.rcd else away
      | none, some w => some w.rcd
      | none, none => (g.doneRoots.find? (fun (d : TaskInfo × Record) => decide (d.1.addr = x.addr))).map (fun (d : TaskInfo × Record) => d.2)
    let rcd := here.getD (held x)
    let back (u : Nat) : Bool := t.units.contains (u / 32)
    let mat : MatState := ⟨j.mat.bytes, sortBy (fun a b => decide (a < b)) (t.mat.bad.filter (fun u => !t.mregs.contains (matReg u)) ++
      j.mat.bad.filter (fun u => t.mregs.contains (matReg u)))⟩
    s.setTile n <| (fun t : Tile => if g.desc.dsm then t.setCtl cQCOUNT (if g.step = 0 then 0 else 1) else t) { t with
      wp := word (s.spSize n - 0x1800)
      sp := j.sp
      spPoison := sortBy (fun a b => decide (a < b)) (t.spPoison.filter (fun u => !back u) ++ j.poison.filter back)
      mat := mat, matClean := decide (mat = {}), units := [], mregs := [], mq := [], msg := none, swap := none, slots := []
      root := none
      run := some { rcd := rcd, job := jid, pc := j.pc, reqs := (t.run.map (fun (r : Run) => r.reqs)).getD (if g.out && g.placing == 0 then g.stop else []) } }

/-- The record of a root that stands on no tile: as it waits in a queue, else as it lies at its address, else as its launch made it
(R30, R333). -/
def State.heldRecord (s : State) (jid gid : Nat) (j : Job) (x : TaskInfo) : Record :=
  let mine (l : List Record) : Option Record := l.find? (fun r => decide (r.addr = x.addr))
  match mine (j.ready ++ j.unwritten.map (·.rcd)), s.tiles.findSome? (fun (e : Nat × Tile) => if ownedBy e.2.owner jid then mine e.2.deque else none) with
  | some r, _ | none, some r => r
  | none, none =>
    let made : Record := { cp := 0, fp := word (x.addr - Config.recOff), lin := x.key.lin, gang := BitVec.ofNat 32 gid,
                           flags := mkFlags x.key.depth 0 x.key.depth false false }
    match s.devRead jid (s.jobSite jid) x.addr 64 accLoad with
    | .ok (_, bs) => if chkOk bs && (Record.ofBytes bs).gang == made.gang then Record.ofBytes bs else made
    | .error _ => made

/-- The returning atomics that a journaled root had performed when the superstep began (R354). -/
def Gang.natomAt (g : Gang) (x : TaskInfo) : Nat :=
  match g.journals.find? (fun (j : Journal) => x.root == some j.root) with
  | some j => j.natom
  | none => x.natom

/-- The atomic log without what a rolled-back superstep put into it on pass 1 (R333, R354). -/
def Meas.rolledBack (m : Meas) (g : Gang) : Meas :=
  if m.pass ≠ 1 then m
  else { m with log := m.log.filter (fun e => !g.tasks.any (fun x => x.key == e.1 && decide (g.natomAt x ≤ e.2.1))) }

/-- A sealed batch holds entries of an earlier superstep than the current one, applied or not: a rollback leaves it (R302, R333). -/
def Gang.keepsBatch (g : Gang) (b : Batch) : Bool :=
  (g.entries ++ g.applied).any (fun e => decide (e.step ≠ g.step) && decide (e.batch = some b.id))

/-- A rollback of the current superstep (R333). -/
def State.rollback (s : State) (jid gid : Nat) : State :=
  match s.job? jid, s.gang? jid gid with
  | some j, some g =>
    let g := { g with tasks := g.tasks ++ g.doneRoots.map (fun (d : TaskInfo × Record) => d.1) }
    let back (a : Nat) : Bool := g.tasks.any (fun t => decide (t.addr = a))
    let held := s.heldRecord jid gid j
    let s := s.setJob jid { j.forget back with ready := j.ready.filter (fun r => !back r.addr) }
    let s := { s with tiles := s.tiles.map (fun (e : Nat × Tile) =>
      if ownedBy e.2.owner jid then (e.1, { e.2 with deque := e.2.deque.filter (fun r => !back r.addr) }) else e) }
    let s := s.settleDeques jid
    let s := g.journals.foldl (fun s x =>
      match g.placed[x.root]? with
      | some n => s.restoreRoot jid n g x held
      | none => s) s
    let s := s.dropBarges (fun b => decide (b.job = jid) && decide (b.gang = gid) && decide (b.step = g.step))
    let s := s.addCounter j 40 1
    let s := s.addCounter j 42 (if g.reexec then 0 else g.macs)
    let s := s.setGang jid gid { g with
      entries := g.entries.filter (fun e => decide (e.step ≠ g.step))
      batches := g.batches.filter g.keepsBatch
      nodeBatch := if g.batches.any (fun b => g.nodeBatch.any (fun k => decide (b.id < k)) && !g.keepsBatch b) then none else g.nodeBatch
      rolls := g.rolls + 1
      rollDue := false
      macs := 0
      dormant := false
      norestore := true
      doneRoots := []
      meas := (s.gang? jid gid).bind (fun h => h.meas.map (·.rolledBack g))
      tasks := g.tasks.map (fun (t : TaskInfo) => { t with natom := g.natomAt t, ended := false, blocked := false, amo := none, owes := none, got := none, amof := none, joining := false, waits := none })
      bars := g.jbars
      gens := g.jgens
      quantum := g.jquantum }
    s.jobErr jid 6
  | _, _ => s

/-- A gang stands on its tiles: it is neither being pre-empted nor waiting to be placed again. -/
def State.standing (s : State) (g : Gang) : Bool :=
  g.placing == 0 && !g.placed.isEmpty && g.saves.isEmpty &&
    g.placed.all (fun n => (s.tile n).saved.isNone && !(s.tile n).run.any (fun r => r.firm == some .save))

/-- The current superstep of a gang rolled back where it is restorable: at once, or at its re-placement when it has left its tiles
(R330, R333). -/
def State.tryRollback (s : State) (jid gid : Nat) (g : Gang) : Option State :=
  if s.restorable g then
    some (if s.standing g then s.rollback jid gid else s.setGang jid gid { g with rollDue := true })
  else none

/-- A failure's report (R334, R336). -/
structure Failure where
  detail : Nat
  tval : Nat := 0
  code : Nat := 0
  task : Nat := 0
  tile : Nat := 0xFFFF
  seq : Nat := 0
  deriving DecidableEq, Repr

/-- The failure of a gang one of whose records finds no room (R17). -/
def noRoom (r : Record) : Failure := { detail := 8, task := r.addr, seq := r.seq.toNat }

/-- An uncorrectable error met at the record of a task (R330). -/
def recordError (r : Record) (tile : Nat) : Failure :=
  { detail := 3, code := 0x0F, task := r.addr, tile := tile, seq := r.seq.toNat }

/-- The record of R410: an upcall task has ended. -/
def State.postUpcallEnd (s : State) (jid addr seq : Nat) (f : Failure) : State :=
  s.postBoth jid (faultRecord31 f.tval 0 addr noGang 16 f.code 0 f.detail f.tile jid seq s.ccy.toNat)

/-- A record placed in the ready queue, or on the pending list when the queue is full; with the failure of its gang when that list has
no room either and the record is gone, or when the walk of its address consumed poison (R17, R260). An upcall record that finds no room
leaves the pending mark of R76 (R17); one whose walk consumed poison ends, and its frame is free (R410). Where the record lay before is
free. -/
def State.queueReady (s : State) (jid : Nat) (r : Record) (front : Bool) : State × Option Failure :=
  match s.job? jid with
  | none => (s, none)
  | some j =>
    let j := { j with images := AMap.erase j.images r.addr }
    let s := s.setJob jid j
    if j.ready.length < j.readyQN then (s.enqueue jid r front, none)
    else if 2 ^ 20 ≤ j.pending.length then
      (if r.handler then
        (s.setJob jid { j.freeUpcall r.addr with missed := some (((j.upcallOf r.addr).map (fun u => (u.args.headD 0).toNat)).getD 0) }, none)
      else (s, some (noRoom r)))
    else
      match s.taskWrite jid (s.jobSite jid) r r.addr r.bytes with
      | .ok s' =>
        (match s'.job? jid with
        | some j => (s'.setJob jid { j with pending := if front then ⟨r.addr, true, r.seq.toNat⟩ :: j.pending
                                        else j.pending ++ [⟨r.addr, false, r.seq.toNat⟩] }, none)
        | none => (s', none))
      | .error f =>
        let s' := s.holdReady jid r front f
        if !f.poison then (s', none)
        else if r.handler then
          ((match s'.job? jid with
          | some j => s'.setJob jid (j.freeUpcall r.addr)
          | none => s').postUpcallEnd jid r.addr r.seq.toNat (recordError r 0xFFFF), some (recordError r 0xFFFF))
        else (s', some (recordError r 0xFFFF))

/-- Records placed at the front of the ready queue in their order, and the failures that this brought. -/
def State.queueFront (s : State) (jid : Nat) : List Record → State × List (Record × Failure)
  | [] => (s, [])
  | r :: t =>
    let (s, bad) := s.queueFront jid t
    let (s, f) := s.queueReady jid r true
    (s, match f with
      | some f => (r, f) :: bad
      | none => bad)

/-! The territory in the job control block (R37) and upcalls (R75 to R77, R409). -/

/-- Tiles a job owns, rising. -/
def State.tilesOf (s : State) (jid : Nat) : List Nat :=
  sortBy (fun a b => decide (a < b)) ((s.tiles.filter (fun e => e.2.owner == Owner.job jid)).map (·.1))

/-- TMAP, PRESS and TENA of one tile written; `own` when the job has gained it. -/
def State.mapTile (s : State) (j : Job) (own : Bool) (n : Nat) : State :=
  let b := s.jcb j (0x300 + n / 8) 1
  let bit := 2 ^ (n % 8)
  let s := s.setJcb j (0x300 + n / 8) 1 (if own then b ||| bit else b - (b &&& bit))
  let s := s.setJcb j (0x600 + 2 * n) 2 (if own then (s.tile n).pres.toNat else 0)
  s.setJcb j (0xC00 + 4 * n) 4 (s.tile n).tenure.toNat

/-- One update of R37, TGEN from even to even: tiles gained or lost, GAINS, LOSSES and REFUSED increased, and the copy of R338. -/
def State.terrUpdate (s : State) (jid : Nat) (own : Bool) (ns : List Nat) (gains losses refused : Nat) : State :=
  match s.job? jid with
  | none => s
  | some j =>
    let s := ns.foldl (fun s n => s.mapTile j own n) s
    let c := s.jcb j 0x204 2
    let s := s.setJcb j 0x204 2 (if own then c + ns.length else c - ns.length)
    let s := s.setJcb j 0x208 8 (satAdd (s.jcb j 0x208 8) gains)
    let s := s.setJcb j 0x210 8 (satAdd (s.jcb j 0x210 8) losses)
    let s := s.setJcb j 0x218 8 (satAdd (s.jcb j 0x218 8) refused)
    let s := s.setJcb j 0x200 4 (s.jcb j 0x200 4 + 2)
    s.setJob jid { j with copy := AMap.set (AMap.set (AMap.set (AMap.set j.copy 64 (s.jcb j 0x200 4)) 65 (s.jcb j 0x208 8))
      66 (s.jcb j 0x210 8)) 67 (s.jcb j 0x218 8) }

/-- A tile hosts a task of a running CONCURRENT gang. DESIGN CHOICE (log 119): R67 and R72 say hosts a task of a running one; a tile
taken for a placement counts from then on, before the gang's roots are on it. -/
def State.hostsConcurrent (s : State) (n : Nat) : Bool :=
  s.jobs.any (fun (e : Nat × Job) => e.2.liveGangs.any (fun g => g.2.desc.cls == 2 && g.2.placed.contains n))

/-- The CONCURRENT gang that holds a tile: job and gang. -/
def State.concurrentOn (s : State) (n : Nat) : Option (Nat × Nat) :=
  s.jobs.findSome? (fun (e : Nat × Job) =>
    (e.2.liveGangs.find? (fun g => g.2.desc.cls == 2 && g.2.placed.contains n)).map (fun g => (e.1, g.1)))

/-- A pre-emption requested of what a tile runs, for the roots of a dispatched gang or not (R47, R324). A request that finds one of
its source pending adds its gang to it. -/
def State.request (s : State) (n : Nat) (src : PreSrc) (gangs : NSet := []) : State :=
  let t := s.tile n
  s.setTile n { t with run := t.run.map (fun r =>
    if r.reqs.any (fun q => q.src == src) then
      { r with reqs := r.reqs.map (fun q => if q.src == src then { q with gangs := gangs.foldr NSet.insert q.gangs } else q) }
    else { r with reqs := r.reqs ++ [PreReq.mk src s.ccy.toNat gangs] }) }

/-- A pre-emption requested on a tile, of the whole gang when it is CONCURRENT (R327). -/
def State.requestOn (s : State) (n : Nat) (src : PreSrc) : State :=
  match s.concurrentOn n with
  | none => s.request n src
  | some (jid, gid) =>
    match s.gang? jid gid with
    | none => s
    | some g => g.placed.foldl (fun s k => s.request k src) (s.setGang jid gid { g with
        out := true, stop := if g.stop.any (fun q => q.src == src) then g.stop else g.stop ++ [⟨src, s.ccy.toNat, []⟩] })

/-- The first frame of the handler ring not in use (R76). -/
def Job.freeFrame (j : Job) : Option Nat :=
  (List.range 16).find? (fun k => !(j.upcalls.any (fun u => decide (u.frame = k))))

/-- The change of a tile that has no record of its own is noted (R76, R409). -/
def State.missUpcall (s : State) (jid n : Nat) : State :=
  match s.job? jid with
  | some j => s.setJob jid { j with missed := some n }
  | none => s

/-- An upcall record put where R77 says: the head of a deque, whose tile then pre-empts, or first in the ready queue. -/
def State.placeUpcall (s : State) (jid : Nat) (r : Record) (target : Nat) : State :=
  let own := (s.tilesOf jid).filter (fun n => !s.hostsConcurrent n)
  let tile := if own.contains target then some target else own.head?
  match tile, s.job? jid with
  | some n, some _ => (s.putDeque n (r :: (s.tile n).deque)).request n .upcall
  | none, some _ => (s.queueReady jid r true).1
  | _, none => s

/-- An upcall for a change at tile n (R75): in place of its own kind, an overrun when a change has been missed while every frame
was in use or while the area or the tables could not be read (R76, R409). -/
def State.makeUpcall (s : State) (jid kind n target : Nat) : State :=
  match s.job? jid with
  | none => s
  | some j =>
    match s.areaOk j, s.regionTable jid (s.jcb j 0x18 8) (s.jcb j 0x14 4), s.regionTable jid (s.jcb j 8 8) (s.jcb j 0x10 4) with
    | true, .ok code, .ok consts =>
      let h := s.handlerOf j
      if h = 0 then s
      else match j.freeFrame with
        | none => s.missUpcall jid n
        | some k =>
          let kind := if j.missed.isSome then 5 else kind
          let target := if kind = 5 then (s.tilesOf jid).headD target else target
          let fp := j.ring + 0x1800 * k
          let r : Record := { cp := word h, fp := word fp, lin := 0, gang := BitVec.ofNat 32 noGang, flags := mkFlags 1 0 1 false true }
          let args := [word n, word (n % 24), word (n / 24), word kind, word (s.jcb j 0x204 2), word (s.tile n).tenure.toNat,
            word (s.jcb j 0x200 4)]
          (s.setJob jid { j with missed := none, upcalls := j.upcalls ++ [⟨k, fp + Config.recOff, args, code, consts⟩] }).placeUpcall
            jid r target
    | _, _, _ => s.missUpcall jid n

/-- A frame of the ring is free again: the change that was missed gets its record (R76). -/
def State.frameFreed (s : State) (jid : Nat) : State :=
  match (s.job? jid).bind (·.missed) with
  | some n => s.makeUpcall jid 5 n n
  | none => s

/-! Containment (R335). -/

/-- What one gang's end under containment takes away (R335 steps 1 to 3), and the failures that putting records back then
brought. DESIGN CHOICE (log 116): records already evicted for its placement go to the front of the ready queue, as they would with no
other tile to go to (R72). -/
def State.stripGang (s : State) (jid gid : Nat) : State × List (Record × Failure) :=
  match s.gang? jid gid with
  | none => (s, [])
  | some g =>
    let mine (r : Record) : Bool := !r.handler && decide (r.gang.toNat = gid)
    let addrs := g.tasks.map (·.addr)
    let s := { s with
      tiles := s.tiles.map (fun (e : Nat × Tile) =>
        let t := e.2
        let run := match t.run with
          | some r => if decide (r.job = jid) && mine r.rcd then none else some r
          | none => none
        let hit := t.run.isSome && run.isNone
        let here := ownedBy t.owner jid
        (e.1, { t with
          run := run
          root := match t.root with
            | some w => if decide (w.job = jid) && mine w.rcd then none else some w
            | none => none
          saved := match t.saved with
            | some w => if decide (w.job = jid) && mine w.rcd then none else some w
            | none => none
          msg := if hit then none else t.msg
          swap := if hit then none else t.swap
          journaling := if here && g.placed.contains e.1 then false else t.journaling
          deque := if here then t.deque.filter (fun r => !mine r) else t.deque })) }
    let s := s.dropBarges (fun b => decide (b.job = jid) && decide (b.gang = gid))
    match s.job? jid with
    | none => (s, [])
    | some j =>
      let j' := j.setGang gid { g with phase := .voided, tasks := [], entries := [], batches := [], journals := [],
                                       saves := [], placed := [], placing := 0, ousted := [], out := false, stop := [] }
      (s.setJob jid { j'.forget (fun a => addrs.contains a) with
        gangs := j'.gangs.map (fun (e : Nat × Gang) => (e.1, { e.2 with ousted := e.2.ousted.filter (fun r => !mine r) }))
        ready := j.ready.filter (fun r => !mine r) }).queueFront jid (g.ousted.filter (fun r => !mine r))

/-- The final status of a graph command once every node has ended: RETIRED, or that of the lowest node that did not commit
(R52). -/
def Graph.final (g : Graph) : Option Nat :=
  if g.nodes.all (fun n => n.ended.isSome) then
    some (((g.nodes.filterMap (·.ended)).find? (fun x => decide (x ≠ 1))).getD 1)
  else none

/-- A node's end noted; the command's final status is written and the counters return when every node has ended. DESIGN CHOICE
(log 117): a GRAPH status that cannot be written counts in BADWR of the stream it names, node 0's. -/
def State.endNode (s : State) (jid inst node status : Nat) : State :=
  match s.job? jid with
  | none => s
  | some j =>
    let gs := j.graphs.map (fun (g : Graph) =>
      if g.id = inst then { g with nodes := g.nodes.modify node (fun n => { n with ended := some status }) } else g)
    let s := s.setJob jid { j with graphs := gs }
    match gs.find? (fun (g : Graph) => decide (g.id = inst)) with
    | none => s
    | some g =>
      match g.final with
      | none => s
      | some st =>
        let n0 := g.nodes.headD ⟨noGang, 0, 0, [], 0, none⟩
        (s.setJob jid { j with graphs := gs.filter (fun (g : Graph) => decide (g.id ≠ inst)) }).writeStatus jid n0.stream g.stat st n0.gang
          n0.ticket g.ctag

/-- One gang voided: its effects taken away, its final status written (R304, R335, R42); with the failures of `stripGang`. -/
def State.voidGang (s : State) (jid gid status : Nat) : State × List (Record × Failure) :=
  match s.gang? jid gid with
  | none => (s, [])
  | some g =>
    let (s, lost) := s.stripGang jid gid
    let s := match s.gang? jid gid with
      | some g => s.setGang jid gid { g with final := some status }
      | none => s
    (match g.node with
    | some (inst, n) => s.endNode jid inst n status
    | none => s.writeStatus jid g.stream g.stat status gid g.ticket g.ctag, lost)

/-- Gangs that containment of one gang reaches next: later tickets of its stream (step 4), AFTV waits on it (R44), graph
successors (R52, step 6). -/
def Job.reached (j : Job) (g : Gang) : List Nat :=
  let succs := match g.node with
    | some (inst, n) =>
      (match j.graphs.find? (fun (x : Graph) => decide (x.id = inst)) with
      | some x =>
        (match x.nodes[n]? with
        | some nd => nd.succs.filterMap (fun k => (x.nodes[k]?).map (fun (n : GNode) => n.gang))
        | none => [])
      | none => [])
    | none => []
  (j.gangs.filter (fun e => e.2.live && decide
    ((e.2.stream = g.stream ∧ g.ticket < e.2.ticket) ∨
     (e.2.desc.aftv = true ∧ e.2.desc.afts = g.stream ∧ e.2.desc.afttk = g.ticket ∧ e.2.phase = .waiting
        ∧ e.2.aftEpoch = (j.stream g.stream).epoch) ∨ e.1 ∈ succs))).map (·.1)

def State.group? (s : State) (n : Nat) : Option Group := s.groups.find? (fun g => decide (g.num = n))
def State.setGroup (s : State) (g : Group) : State :=
  { s with groups := s.groups.map (fun (x : Group) => if x.num = g.num then g else x) }

/-- No collective of a group is in flight: a waiting table takes its place (R376). -/
def State.swapTable (s : State) (num : Nat) : State :=
  match s.group? num with
  | none => s
  | some g =>
    let busy := s.jobs.any (fun (e : Nat × Job) => e.2.colls.any (fun c => decide (c.group = num)))
    match busy, g.next with
    | false, some (j, r, t) => s.setGroup { g with job := j, rank := r, table := t, next := none, early := [], issued := 0, lost := false }
    | _, _ => s

/-- The ticket of a collective that has ended FAILED kept, for the gangs that wait on it (R44, R335). -/
def Job.loseTicket (j : Job) (sn ticket : Nat) : Job :=
  let st := j.stream sn
  j.setStream sn { st with lost := NSet.insert ticket st.lost }

/-- Collectives of a job taken away with a status (R335, R380), and waiting tables of their groups put in force. -/
def State.endColls (s : State) (jid status : Nat) (hit : Coll → Bool) : State :=
  match s.job? jid with
  | none => s
  | some j =>
    let out := j.colls.filter hit
    let s := out.foldl (fun s c => s.writeStatus jid c.stream (fieldAt c.cmd 24 8) status noGang c.ticket (fieldAt c.cmd 16 8)) s
    let s := match s.job? jid with
      | some j => s.setJob jid (out.foldl (fun (j : Job) c => j.loseTicket c.stream c.ticket) { j with colls := j.colls.filter (fun c => !hit c) })
      | none => s
    (out.map (·.group)).foldl State.swapTable s

/-- Containment reaches the collectives with later tickets of a stream: they have not contributed, and end FAILED (R380). -/
def State.flushColls (s : State) (jid sn ticket : Nat) : State :=
  s.endColls jid 0x200 (fun c => decide (c.stream = sn) && decide (ticket < c.ticket))

/-- The report of a gang's failure: a KIND 16 record and GANGFAIL (R334). -/
def State.reportFailure (s : State) (jid : Nat) (f : Failure) (gid : Nat) (g : Gang) : State :=
  (s.postBoth jid (faultRecord31 f.tval g.ticket f.task gid 16 f.code g.stream f.detail f.tile jid f.seq s.ccy.toNat)).jobErr jid 7

/-- Failures that records brought when they were put back: an error rolls a restorable gang back (R330); the others are reported, each
gang once, and an upcall's frame is free (R76). The gangs that fail. -/
def State.failLost (s : State) (jid : Nat) : List (Record × Failure) → State × List Nat
  | [] => (s, [])
  | (r, f) :: t =>
    let (s, gs) := s.failLost jid t
    if r.handler then (s.frameFreed jid, gs)
    else match s.gang? jid r.gang.toNat with
    | none => (s, gs)
    | some g =>
      if !g.live || gs.contains r.gang.toNat then (s, gs)
      else match if f.detail = 3 then s.tryRollback jid r.gang.toNat g else none with
        | some s => (s, gs)
        | none => (s.reportFailure jid f r.gang.toNat g, r.gang.toNat :: gs)

/-- Containment over a worklist of gangs and their final statuses (R335). -/
def State.containList (jid : Nat) : Nat → List (Nat × Nat) → State → State
  | 0, _, s => s
  | _, [], s => s
  | n + 1, (gid, status) :: rest, s =>
    match s.job? jid with
    | none => s
    | some j =>
      match j.gang? gid with
      | none => State.containList jid n rest s
      | some g =>
        if !g.live then State.containList jid n rest s
        else
          let next := (j.reached g).map (fun k => (k, 0x201))
          let (s, lost) := s.voidGang jid gid status
          let (s, more) := s.failLost jid lost
          let s := s.flushColls jid g.stream g.ticket
          let s := match s.job? jid with
            | some j => let st := j.stream g.stream
                        s.setJob jid (j.setStream g.stream { st with containing := st.opened })
            | none => s
          State.containList jid n (rest ++ next ++ more.map (fun k => (k, 0x200))) (s.fixHead jid g.stream)

/-- A gang contained, with all it reaches. -/
def State.contain (s : State) (jid gid status : Nat) : State :=
  let n := match s.job? jid with
    | some j => j.gangs.length
    | none => 0
  (State.containList jid (2 * (n + 1) * (n + 1)) [(gid, status)] s).settleDeques jid

/-- A gang fails (R334): a KIND 16 record, GANGFAIL, containment. -/
def State.failGang (s : State) (jid gid : Nat) (f : Failure) : State :=
  match s.gang? jid gid with
  | none => s
  | some g =>
    if !g.live then s
    else (s.reportFailure jid f gid g).contain jid gid (if f.detail = 5 then 0x202 else 0x200)

/-! What ends an upcall (R410), uncorrectable errors (R330). -/

/-- The upcall task of a record ends (R410): nothing saved, its frame freed, a record posted. -/
def State.endUpcall (s : State) (jid addr seq : Nat) (f : Failure) : State :=
  let s := { s with
    tiles := s.tiles.map (fun (e : Nat × Tile) =>
      let gone (r : Record) (j : Nat) : Bool := decide (j = jid) && r.handler && decide (r.addr = addr)
      (e.1, { e.2 with
        run := match e.2.run with
          | some r => if gone r.rcd r.job then none else some r
          | none => none
        saved := match e.2.saved with
          | some w => if gone w.rcd w.job then none else some w
          | none => none
        deque := e.2.deque.filter (fun r => !gone r (match e.2.owner with | .job j => j | .transit j => j | _ => 0)) })) }
  let s := s.dropBarges (fun b => decide (b.job = jid) && decide (b.task = addr))
  let s := match s.job? jid with
    | some j =>
      let other (r : Record) : Bool := !(r.handler && decide (r.addr = addr))
      s.setJob jid { j.freeUpcall addr with
        gangs := j.gangs.map (fun (e : Nat × Gang) => (e.1, { e.2 with ousted := e.2.ousted.filter other }))
        ready := j.ready.filter other }
    | none => s
  ((s.settleDeques jid).frameFreed jid).postUpcallEnd jid addr seq f

/-- A failure of the task of a record: its gang's, or the upcall's end (R334, R410). -/
def State.failTask (s : State) (jid : Nat) (r : Record) (f : Failure) : State :=
  let f := { f with task := r.addr, seq := r.seq.toNat }
  if r.handler then s.endUpcall jid r.addr r.seq.toNat f else s.failGang jid r.gang.toNat f

/-! Uncorrectable errors (R330). -/

/-- An uncorrectable error consumed by a gang (R330): rolled back where restorable, at its re-placement when it has left its tiles
(R333), else the gang fails. -/
def State.gangError (s : State) (jid gid : Nat) (f : Failure) : State :=
  match s.gang? jid gid with
  | some g =>
    (match s.tryRollback jid gid g with
    | some s => s
    | none => s.failGang jid gid { f with detail := 3, code := 0x0F })
  | none => s

/-- An uncorrectable error consumed by the task of a record (R330, R410). -/
def State.taskError (s : State) (jid : Nat) (r : Record) (tile : Nat) : State :=
  let f := recordError r tile
  if r.handler then s.endUpcall jid r.addr r.seq.toNat f else s.gangError jid r.gang.toNat f

/-- A record that is no task's of a live gang and was handed over by none ends under R410, as does an upcall record. -/
def State.rejectRecord (s : State) (jid gid addr : Nat) (f : Failure) : State :=
  if (s.gang? jid gid).any (·.live) then
    (if f.detail = 3 then s.gangError jid gid f else s.failGang jid gid f)
  else s.endUpcall jid addr f.seq f

/-- A fault on the frame at a record address (R408); a walk that consumed poison is also an error of the gang, or ends the upcall
(R260, R330, R410). -/
def State.frameFault (s : State) (n jid gang addr seq : Nat) (f : XFault) : State :=
  let s := s.frameHold n jid gang addr seq f
  if f.poison then s.rejectRecord jid gang addr { detail := 3, code := 0x0F, task := addr, tile := n, seq := seq } else s

/-- 64 bytes read as the record at an address of a job, checked under R14 and R15. A bad one is laid to the gang it names, else to
the gang `by_` whose instruction handed it over, else it is an end under R410. DESIGN CHOICE (log 148): a record with HANDLER set whose
GANG names a live gang, or that a live gang hands over, is invalid; R15 does not speak of it. -/
def State.letIn (s : State) (jid by_ tile addr : Nat) (bs : List Byte) : State × Option Record :=
  let r := Record.ofBytes bs
  let f : Failure := { detail := 3, code := 0x0F, task := addr, tile := tile, seq := r.seq.toNat }
  let gid := if (s.gang? jid r.gang.toNat).any (·.live) then r.gang.toNat else by_
  let ok : Bool :=
    if r.handler then r.gang.toNat == noGang && by_ == noGang && r.valid 65535
    else match s.gang? jid r.gang.toNat with
      | some g => g.live && r.valid g.desc.nstage
      | none => false
  if !chkOk bs then (s.rejectRecord jid gid addr f, none)
  else if !ok then (s.rejectRecord jid gid addr { f with detail := 5 }, none)
  else (s, some r)

/-- A record leaves the ready queue or a deque: where it has a place in memory it is what stands there (R14, R21), where it came back
from one what stood there (R407). DESIGN CHOICE (log 30): where its place in the queue's area no longer translates, the record
as hardware laid it there is the one taken; R14 says nothing of it. -/
def State.liftRecord (s : State) (jid tile : Nat) (r : Record) : State × Option Record :=
  match (s.job? jid).bind (fun j => AMap.get? j.images r.addr) with
  | none => (s, some r)
  | some x =>
    let s := match s.job? jid with
      | some j => s.setJob jid { j with images := AMap.erase j.images r.addr }
      | none => s
    match x with
    | .hard bs => s.letIn jid r.gang.toNat tile r.addr bs
    | .mem va =>
      match s.devRead jid (s.jobSite jid) va 64 accLoad with
      | .ok (s, bs) => s.letIn jid r.gang.toNat tile r.addr bs
      | .error _ => (s, some r)

/-- A record of a list that is being moved: gone when its gang has ended meanwhile, else what stands where it lies (R21, R14). -/
def State.takeUp (s : State) (jid tile : Nat) (r : Record) : State × Option Record :=
  if (s.recGang jid r).any (fun g => !g.live) then (s, none) else s.liftRecord jid tile r

/-- A record placed in the ready queue, or on the pending list; with no room there its gang fails (R17). -/
def State.placeReady (s : State) (jid : Nat) (r : Record) (front : Bool) : State :=
  match s.queueReady jid r front with
  | (s, none) => s
  | (s, some f) => if r.handler then s.frameFreed jid
                   else if f.detail = 3 then s.gangError jid r.gang.toNat f else s.failGang jid r.gang.toNat f

/-- SEQ of the record at a record address: where it is held or queued, else in memory, and where that does not translate as hardware
wrote it there (R258, R336, R408, R410). -/
def State.seqOf (s : State) (jid addr : Nat) : Nat :=
  let at_ (l : List Record) : Option Record := l.find? (fun r => decide (r.addr = addr))
  let onTile (t : Tile) : Option Record :=
    if !ownedBy t.owner jid then none
    else ((at_ ((t.run.map (·.rcd)).toList ++ (t.saved.map (·.rcd)).toList)).orElse (fun _ => at_ t.deque))
  match s.tiles.findSome? (fun (e : Nat × Tile) => onTile e.2), (s.job? jid).bind (fun j => at_ (j.ready ++ j.unwritten.map (·.rcd))) with
  | some r, _ | none, some r => r.seq.toNat
  | none, none => match s.devRead jid (s.jobSite jid) addr 64 accLoad with
    | .ok (_, bs) => (Record.ofBytes bs).seq.toNat
    | .error _ =>
      let wrote (j : Job) : List (Nat × Nat) := j.susp.map (fun x => (x.addr, x.seq)) ++ j.pending.map (fun x => (x.addr, x.seq))
      (((s.job? jid).bind (fun j => (wrote j).find? (fun x => decide (x.1 = addr)))).map (·.2)).getD 0

/-- The gang whose task has a record address. -/
def Job.gangAt (j : Job) (addr : Nat) : Nat :=
  ((j.gangs.find? (fun e => e.2.live && e.2.tasks.any (fun t => decide (t.addr = addr)))).map (·.1)).getD noGang

/-- Records of the pending list move into the queue while it has room (R17). -/
def State.drainPending : Nat → State → Nat → State
  | 0, s, _ => s
  | n + 1, s, jid =>
    match s.job? jid with
    | none => s
    | some j =>
      match j.pending with
      | [] => s
      | p :: t =>
        if j.readyQN ≤ j.ready.length || j.blocked.contains p.addr then s
        else
          let s := s.setJob jid { j with pending := t }
          match s.devRead jid (s.jobSite jid) p.addr 64 accLoad with
          | .error f => ((s.setJob jid j).frameFault 0xFFFF jid (j.gangAt p.addr) p.addr ((s.setJob jid j).seqOf jid p.addr) f)
          | .ok (s, bs) =>
            let (s, r) := s.letIn jid (j.gangAt p.addr) 0xFFFF p.addr bs
            let s := match r with
              | some r => s.placeReady jid r p.front
              | none => s
            State.drainPending n s jid

/-- Every record of the pending list for which the queue has room moves into it (R17). -/
def State.settleReady (s : State) (jid : Nat) : State :=
  match s.job? jid with
  | some j => if j.pending.isEmpty then s else State.drainPending (j.pending.length + 1) s jid
  | none => s

/-- A record handed to the ready queue, behind those of the pending list that have room (R17). -/
def State.pushReady (s : State) (jid : Nat) (r : Record) (front : Bool) : State := (s.settleReady jid).placeReady jid r front

/-- A record moved from a deque to the ready queue (R14, R17, R21). -/
def State.moveReady (s : State) (jid tile : Nat) (r : Record) (front : Bool) : State :=
  match s.takeUp jid tile r with
  | (s, some r) => s.pushReady jid r front
  | (s, none) => s

/-- A placement that loses one of its tiles before the gang has started is undone: the gang is to be placed again (R72, R78).
Roots that had been restored again are saved again. -/
def State.unplace (s : State) (jid gid : Nat) : State :=
  match s.gang? jid gid with
  | none => s
  | some g =>
    if g.placing = 0 then s
    else
      let mine (r : Record) : Bool := !r.handler && decide (r.gang.toNat = gid)
      let s := g.ousted.reverse.foldl (fun (s : State) r => s.pushReady jid r true) s
      if g.placing = 1 then s.setGang jid gid { g with placing := 0, placed := [], ousted := [] }
      else if g.phase == .waiting then
        let s := { s with tiles := s.tiles.map (fun (e : Nat × Tile) =>
          if ownedBy e.2.owner jid then (e.1, { e.2 with
            deque := e.2.deque.filter (fun r => !mine r)
            run := match e.2.run with
              | some r => if r.job = jid && mine r.rcd then none else some r
              | none => none }) else e) }
        let s := s.setGang jid gid { g with placing := 0, placed := [], ousted := [], tasks := [] }
        match s.job? jid with
        | none => s
        | some j =>
          let s := (s.setJob jid { j with images := j.images.filter (fun e => !g.tasks.any (fun t => decide (t.addr = e.1))) }).settleDeques jid
          match s.polder? j.polder with
          | some p => s.setPolder j.polder { p with waitPlace := p.waitPlace ++ [(jid, gid)] }
          | none => s
      else s.setGang jid gid { g with placing := 0 }

/-- A suspended record made ready: read at its address and placed at the tail of the ready queue (R170, R20, R259), from which
only its own tile takes a root of a CONCURRENT gang (R160). -/
def State.wake (s : State) (jid addr : Nat) (front : Bool) : State :=
  match s.job? jid with
  | none => s
  | some j =>
    let s0 := s
    let s := s.setJob jid { j with
      susp := j.susp.filter (fun x => decide (x.addr ≠ addr))
      gangs := j.gangs.map (fun (e : Nat × Gang) => (e.1, { e.2 with
        tasks := e.2.tasks.map (fun (t : TaskInfo) => if t.addr = addr then { t with blocked := false } else t) })) }
    match s.devRead jid (s.jobSite jid) addr 64 accLoad with
    | .error f => s0.frameFault 0xFFFF jid (j.gangAt addr) addr (s0.seqOf jid addr) f
    | .ok (s, bs) =>
      match s.letIn jid (j.gangAt addr) 0xFFFF addr bs with
      | (s, some r) => s.pushReady jid r front
      | (s, none) => s

/-! Staging (R298 to R303). -/

def Gang.head (j : Job) (g : Gang) : Bool := (j.stream g.stream).opened && decide ((j.stream g.stream).head = g.ticket)

def Entry.lt (a b : Entry) : Bool := a.key.lt b.key || (a.key == b.key && decide (a.ord < b.ord))

/-- An entry touches [a, a + n). -/
def Entry.hits (e : Entry) (a n : Nat) : Bool :=
  match e.eff with
  | .store u _ _ => decide (u < a + n) && decide (a < u + 32)
  | .atomic x _ ty _ _ | .red x _ ty _ _ => decide (x < a + n) && decide (a < x + ty.bits / 8)
  | .launch _ _ => false

/-- An entry applied to memory bytes. -/
def Entry.into (m : Memory) (e : Entry) : Memory :=
  match e.eff with
  | .store u mask data => (maskedWrites u mask data).foldl (fun m w => m.writeBytes w.1 w.2) m
  | .atomic a op ty v c =>
    (match atomNew op ty (m.readLE a (ty.bits / 8)) v c with
    | some x => m.writeLE a (ty.bits / 8) x
    | none => m)
  | .red a op ty md v => m.writeLE a (ty.bits / 8) (redStep op ty md (m.readLE a (ty.bits / 8)) v)
  | .launch _ _ => m

/-- Entries of a gang that have applied but whose batch has not ended: of a die-hashed page they may still be on their way to the other
copies (R252, R303). -/
def Gang.landing (g : Gang) : List Entry := g.applied.filter (fun e => g.batches.any (fun b => decide (e.batch = some b.id)))

/-- The gang view of [a, a + n): the committed bytes, of a die-hashed page those of the requester's copy `own` (R252) with the gang's own
stores that are on their way there (R290), with the gang's entries applied in key order (R300), and whether a poisoned unit shows
through. -/
def State.view (s : State) (g : Gang) (a n own : Nat) : State × List Byte × Bool :=
  let s := s.combine (a / 32 * 32) ((a + n + 31) / 32 * 32 - a / 32 * 32)
  let es := (if (keySite a).isSome then g.landing.filter (·.hits a n) else []) ++ sortBy Entry.lt (g.entries.filter (·.hits a n))
  let covered (u : Nat) : Bool := es.any (fun e => match e.eff with
    | .store x mask _ => decide (x ≤ 8 * u) && decide (8 * u < x + 32) && decide (mask.extractLsb' (8 * u - x) 8 = 0xFF)
    | _ => false)
  let lo := a / 32 * 32
  let base := if own = a then s.mem else s.mem.writeBytes lo (s.mem.readBytes (own / 32 * 32) ((a + n + 31) / 32 * 32 - lo))
  (s, (es.foldl Entry.into base).readBytes a n,
    s.poison.any (fun u => decide (8 * u < own + n) && decide (own < 8 * u + 8) && !covered (u + a / 8 - own / 8)))

/-- What staging one entry comes to (R299). -/
inductive Staged where
  | ok (g : Gang)
  | full
  | exhausted

/-- Entries of the polder in a set of a slice, or in a slice's head overflow. -/
def State.stagedAt (s : State) (p : Entry → Bool) : Nat :=
  (s.jobs.map (fun j => (j.2.gangs.map (fun g => (g.2.entries.filter p).length)).foldl (· + ·) 0)).foldl (· + ·) 0

/-- A measured gang has passes to come (R354). -/
def Gang.morePasses (g : Gang) : Bool := g.meas.any (fun m => decide (m.pass < m.passes) && !m.wsfull)

/-- A sealed batch of the gang applies as soon as the gang is its stream's head (R302, R304, R343, R354). -/
def Gang.frees (g : Gang) (e : Entry) : Bool :=
  g.desc.digest != 2 && !g.morePasses && g.batches.any (fun b => e.batch == some b.id && !b.held)

/-- An entry of its own given to the gang: into a free way of its set or, for the head, into the overflow. The head waits only for
entries of its own that are to apply, and fails when there are none in either place (R299, log 97). -/
def State.stageNew (s : State) (j : Job) (g : Gang) (key : TKey) (ord : Nat) (eff : Eff) (va slice set site : Nat) (uses : List Xlat) : Staged :=
  let ways := match s.polder? j.polder with
    | some p => p.memcfg.toNat / 4096 % 8
    | none => 2
  let add (ovf : Bool) : Staged := .ok { g with entries := g.entries ++ [⟨key, ord, eff, va, slice, set, ovf, g.step, none, site, uses⟩] }
  if s.stagedAt (fun e => decide (e.slice = slice) && decide (e.set = set) && !e.ovf) < 4 * ways then add false
  else if !g.head j then .full
  else if s.stagedAt (fun e => decide (e.slice = slice) && e.ovf) < 32768 then add true
  else if g.entries.any (fun e => decide (e.slice = slice) && (e.ovf || decide (e.set = set)) && g.frees e) then .full
  else .exhausted

/-- An open store entry of a task for the unit of another store. -/
def Entry.takes (e : Entry) (key : TKey) (eff : Eff) : Bool :=
  e.batch.isNone && decide (e.key = key) && (match e.eff, eff with
    | .store u _ _, .store u' _ _ => decide (u = u')
    | _, _ => false)

/-- The place among the task's entries of the one a new store merges into: the last it staged for the unit (R298). -/
def Gang.mergeOrd (g : Gang) (key : TKey) (eff : Eff) : Option Nat :=
  ((g.entries.filter (·.takes key eff)).map (·.ord)).foldl (fun m o => some (max o (m.getD 0))) none

/-- A store's bytes laid over those of an entry for the same unit. -/
def Eff.over : Eff → Eff → Eff
  | .store u m d, .store _ m' d' => .store u (m ||| m') ((List.range 32).foldl (fun acc i =>
      if m'.getLsbD i then lineWith acc i (lineBytes d' i 1) else acc) d)
  | e, _ => e

/-- An entry given to the gang by one of its tasks: merged into the task's open store entry for the unit, else one of its own
(R298, R299). -/
def State.stage (s : State) (j : Job) (g : Gang) (key : TKey) (eff : Eff) (va slice set site : Nat) (uses : List Xlat) : Staged :=
  match g.mergeOrd key eff with
  | some o => .ok { g with entries := g.entries.map (fun e =>
      if e.takes key eff && decide (e.ord = o) then
        ({ e with
          eff := e.eff.over eff
          step := g.step
          site := site
          uses := e.uses ++ uses.filter (fun x => !e.uses.contains x) } : Entry)
      else e) }
  | none => s.stageNew j { g with ord := g.ord + 1 } key g.ord eff va slice set site uses

/-- Open entries that a condition names become one batch (R301). -/
def Gang.seal (g : Gang) (held : Bool) (p : Entry → Bool) : Gang :=
  if g.entries.any (fun e => e.batch.isNone && p e) then
    { g with entries := g.entries.map (fun e => if e.batch.isNone && p e then { e with batch := some g.nbatch } else e)
             batches := g.batches ++ [⟨g.nbatch, held⟩]
             nbatch := g.nbatch + 1 }
  else g

/-! Code and constants held by tiles (R110, R248). -/

def Tile.dropCode (t : Tile) (p : Nat → Bool) : Tile :=
  { t with icache := t.icache.filter (fun x => !p x.key), fbuf := t.fbuf.filter (fun x => !p x.key) }

/-- The instruction caches and fetch buffers of a polder drop the lines of the code regions of a launch, its constant caches are
emptied (R110, R248). DESIGN CHOICE (log 105): the caches hold physical lines, and the lines of a page that does not translate
now are kept, since R110 says of no other way to find them. -/
def State.dropCodeOf (s : State) (jid polder : Nat) (code : List Region) : State :=
  let sites := ((s.polder? polder).map (fun p => p.sites polder)).getD []
  let spans := sites.flatMap (fun d => code.flatMap (fun r => (pieces r.base r.len).filterMap (fun p =>
    match s.devKey jid d p.1 accFetch .read with
    | .ok k => some (k, p.2)
    | .error _ => none)))
  { s.coolPolder polder with tiles := s.tiles.map (fun (e : Nat × Tile) =>
    if s.polderOfTile e.1 |>.any (fun p => decide (p.1 = polder)) then
      (e.1, { e.2.dropCode (fun k => spans.any (fun x => decide (x.1 < 64 * k + 64) && decide (64 * k < x.1 + x.2))) with ccache := [] })
    else e) }

/-- The same when a staged launch reaches its port queue, for the code regions the job's tables then name (R110). -/
def State.dropCodeAt (s : State) (jid : Nat) : State :=
  match s.job? jid with
  | none => s
  | some j => s.dropCodeOf jid j.polder (match s.areaOk j, s.regionTable jid (s.jcb j 0x18 8) (s.jcb j 0x14 4) with
    | true, .ok code => code
    | _, _ => [])

/-- Commands waiting in the overflows of a polder (R44). -/
def State.overflowUsed (s : State) (polder : Nat) : Nat :=
  ((s.jobs.filter (fun j => decide (j.2.polder = polder))).map (fun j =>
    (j.2.streams.map (fun st => st.2.overflow.length)).foldl (· + ·) 0)).foldl (· + ·) 0

/-- A delivered launch enters its port queue or overflow; none while the polder's overflow is full (R44). -/
def State.deliver (s : State) (jid sn : Nat) (cmd : List Byte) : Option State :=
  match s.job? jid with
  | none => some s
  | some j =>
    let st := j.stream sn
    if st.queue.length < 64 && st.overflow.isEmpty then
      some ((s.setJob jid (j.setStream sn { st with queue := st.queue ++ [⟨cmd, true⟩] })).dropCodeAt jid)
    else if s.overflowUsed j.polder < 65536 then
      some ((s.setJob jid (j.setStream sn { st with overflow := st.overflow ++ [⟨cmd, true⟩] })).dropCodeAt jid)
    else none

/-- What applying one entry comes to. -/
inductive Applied where
  | ok (s : State)
  | wait
  | poison

/-- Where an entry's unit is written first: at its home, of a die-hashed page at the writer's copy (R252). -/
def Entry.first (e : Entry) (u : Nat) : Nat := if (keySite u).isSome then physKey e.site (u % 2 ^ 52) else u

/-- One entry performed at its home (R303, R306). -/
def State.applyEntry (s : State) (jid : Nat) (e : Entry) : Applied :=
  let sites := s.jobSites jid
  match e.eff with
  | .launch sn cmd =>
    (match s.deliver jid sn cmd with
    | some s => .ok s
    | none => .wait)
  | .store u mask data => .ok (s.homeWrites sites (maskedWrites (e.first u) mask data))
  | .atomic a _ ty _ _ | .red a _ ty _ _ =>
    let n := ty.bits / 8
    if s.memBad a n then .poison
    else
      let (s, _) := s.homeRead a n
      .ok (s.homeWrite sites a ((e.into s.mem).readBytes a n))

end Sys2Proof.Machine
end

