-- ==== Sys2Proof/Machine/Fetch.lean ====
section
/-! DEFINITION. Fetch.lean: fetch lines, parity, the checks of R87 in their order, the instruction cache and the fetch buffer
(R82 to R90, R107 to R110). -/
namespace Sys2Proof.Machine

/-- Why a fetch fails: a trap of R87 with the state it leaves, a translation failure (check 3), poison (R260). -/
inductive FetchFail where
  | trap (s : State) (cause : Nat)
  | xlate (f : XFault)
  | poison (s : State)

/-- Parity of the low n bits. -/
def parity (x : Nat) : Nat → Bool
  | 0 => false
  | n + 1 => (x.testBit n) != parity x n

/-- The line word of a line, and slot k (R82, R84). -/
def lineWord (l : BitVec 512) : Nat := l.toNat / 2 ^ 480
def lineSlot (l : BitVec 512) (k : Nat) : IWord := BitVec.ofNat 96 (l.toNat / 2 ^ (96 * k))

/-- LPAR and the SPAR bit of slot k (R85). -/
def lparOk (l : BitVec 512) : Bool := !parity (lineWord l) 32
def sparOk (l : BitVec 512) (k : Nat) : Bool := parity (lineSlot l k).toNat 96 == (lineWord l).testBit (16 + k)

/-- A line enters the fetch buffer of four lines and, when `cached`, the instruction cache of 64 sets of 8 ways (R107, log 20).
DESIGN CHOICE (log 124): a line's set is its physical line number modulo 64, which R107 does not say. -/
def State.keepCode (s : State) (tile : Nat) (x : CLine) (cached : Bool) : State :=
  let t := s.tile tile
  let ic := t.icache.filter (fun y => decide (y.key ≠ x.key))
  let fb := t.fbuf.filter (fun y => decide (y.key ≠ x.key))
  let inSet (y : CLine) : Bool := y.key % 64 == x.key % 64
  let drawn := (cached && placeFull 8 inSet ic) || placeFull 4 (fun _ => true) fb
  { s with draws := if drawn then s.draws + 2 else s.draws }.setTile tile { t with
    icache := if cached then x :: makeRoom 8 (Config.cacheVictim s.draws) inSet ic else t.icache
    fbuf := x :: makeRoom 4 (Config.cacheVictim (s.draws + 1)) (fun _ => true) fb }

def findCLine (key : Nat) (l : List CLine) : Option CLine := l.find? (fun x => decide (x.key = key))

/-- The physical line of a PC: in task mode by translation; supervisor code lies at physical addresses (log 21). -/
def State.codeKey (s : State) (tile : Nat) (r : Run) (pc : Nat) : Except XFault (State × Nat) :=
  if r.sup then .ok (s, pc / 64)
  else
    match s.translate tile r.job pc accFetch .fetch with
    | .ok x => .ok (s.fillXlat tile r.job pc .fetch x, x.key (s.siteOf tile) (pc / 64 * 64) / 64)
    | .error f => .error f

/-- A line read from its home into the instruction cache (R109). DEDUCED (log 145): the home alone, not a dirty line of the tile's own L1,
is what a fetch sees, after an ifence too. -/
def State.homeLine (s : State) (tile key : Nat) : State × CLine :=
  let (s, bs) := s.homeRead (key * 64) 64
  let x : CLine := { key := key, data := BitVec.ofNat 512 (leVal bs) }
  (s.keepCode tile x true, x)

/-- The line as the fetch unit holds it, brought in when it is not held, an instruction-cache miss (R353); whether it has just entered the fetch buffer. -/
def State.heldLine (s : State) (tile key : Nat) : State × CLine × Bool :=
  let t := s.tile tile
  match findCLine key t.fbuf with
  | some x => (s, x, false)
  | none =>
    match findCLine key t.icache with
    | some x => (s.keepCode tile x false, x, true)
    | none =>
      let (s, x) := s.homeLine tile key
      (s.setTile tile ((s.tile tile).event 12), x, true)

/-- The next sequential line prefetched into the instruction cache once a line has entered the buffer (R107): a line of the same
page and of the code the task may run, unpoisoned and not held; whether it has come by now is a free value (log 20). -/
def State.prefetch (s : State) (tile key : Nat) (inCode : Bool) : State :=
  let t := s.tile tile
  if !inCode || (key + 1) % 1024 == 0 || (findCLine (key + 1) t.fbuf).isSome || (findCLine (key + 1) t.icache).isSome
      || s.memBad ((key + 1) * 64) 64 then s
  else if !Config.prefetched s.draws then { s with draws := s.draws + 1 }
  else
    let (s, bs) := { s with draws := s.draws + 1 }.homeRead ((key + 1) * 64) 64
    let t := s.tile tile
    let inSet (y : CLine) : Bool := y.key % 64 == (key + 1) % 64
    { s with draws := if placeFull 8 inSet t.icache then s.draws + 1 else s.draws }.setTile tile { t with
      icache := { key := key + 1, data := BitVec.ofNat 512 (leVal bs) } :: makeRoom 8 (Config.cacheVictim s.draws) inSet t.icache }

/-- Parity of a line: LPAR when it has entered the buffer, SPAR of the slot (R88). -/
def lineOk (x : CLine) (entered : Bool) (k : Nat) : Bool := (!entered || lparOk x.data) && sparOk x.data k

/-- The line lies in the code a task may run, or in the firmware region (R87 check 2, R323). -/
def State.codeOk (s : State) (r : Run) (line : Nat) : Bool :=
  if r.sup then decide (s.firmware.1 ≤ line) && decide (line + 64 ≤ s.firmware.1 + s.firmware.2)
  else decide (line < 2 ^ 60) && (s.codeOf r).any (fun c => decide (c.base ≤ line) && decide (line + 64 ≤ c.base + c.len))

/-- Checks 3 and 4 of R87 at a PC that passed checks 1 and 2: the line, read once more after a parity mismatch; a copy that fails
again is not kept (R88). -/
def State.fetchLine (s : State) (tile : Nat) (r : Run) (pc : Nat) : Except FetchFail (State × BitVec 512) :=
  match s.codeKey tile r pc with
  | .error f => .error (.xlate f)
  | .ok (s, key) =>
    if s.memBad (key * 64) 64 && (findCLine key (s.tile tile).fbuf).isNone && (findCLine key (s.tile tile).icache).isNone then
      .error (.poison s)
    else
      let (s, x, entered) := s.heldLine tile key
      if lineOk x entered (pc % 64 / 12) then
        .ok (if entered then s.prefetch tile key (s.codeOk r (pc / 64 * 64 + 64)) else s, x.data)
      else
        let s := (s.setTile tile ((s.tile tile).dropCode (fun k => decide (k = key)))).tileErr tile 5
        if s.memBad (key * 64) 64 then .error (.poison s)
        else
        let (s, x) := s.homeLine tile key
        if lineOk x true (pc % 64 / 12) then .ok (s, x.data)
        else .error (.trap (s.setTile tile ((s.tile tile).dropCode (fun k => decide (k = key)))) 0x04)

/-- Checks 1 to 5 of R87 at a PC; `target` when R89 applies. The slot and the line word. -/
def State.fetchCheck (s : State) (tile : Nat) (r : Run) (pc : Word) (target : Bool) :
    Except FetchFail (State × IWord × Nat) :=
  let p := pc.toNat
  if !([0, 12, 24, 36, 48].contains (p % 64)) then .error (.trap s 0x02)
  else if 2 ^ 60 ≤ p ∨ s.codeOk r (p / 64 * 64) = false then .error (.trap s 0x06)
  else
    match s.fetchLine tile r p with
    | .error f => .error f
    | .ok (s, l) =>
      if target && !(lineWord l).testBit (p % 64 / 12) then .error (.trap s 0x03)
      else .ok (s, lineSlot l (p % 64 / 12), lineWord l)

/-- Check 6 of R87: the reserved bits [15:9] and [31:22] of a line word are zero. -/
def lineClean (lw : Nat) : Bool := lw / 512 % 128 == 0 && lw / 2 ^ 22 == 0

/-- The PC after a slot (R86). -/
def nextPc (pc : Word) : Word := if pc.toNat % 64 = 48 then pc + 16 else pc + 12

end Sys2Proof.Machine
end

