-- ==== Sys2Proof/Machine/Take.lean ====
section
/-! DEFINITION. Take.lean: records on tiles. Write-back (R19, R290), suspension (R16, R160, R258), taking a record and
restoring it (R19, R25, R30, R75, R328, R407, R408), placing a created record (R25), decrements of JC (R20), a gang's
retirement (R158, R342), barge requests entering an engine (R275). -/
namespace Sys2Proof.Machine

/-! Poison in job memory. -/

def State.devBad (s : State) (jid die va n acc : Nat) : Bool :=
  (pieces va n).any (fun p => match s.devKey jid die p.1 acc .read with
    | .ok k => s.memBad k p.2
    | .error _ => false)

/-! Barge requests entering an engine. -/

/-- The running task or waiting root of a tile is the task at a record address. -/
def Tile.hosts (t : Tile) (jid addr : Nat) : Bool :=
  t.run.any (fun r => decide (r.job = jid) && decide (r.rcd.addr = addr))

/-- An engine accepts a request: its promise is written to w(D) of the task (R275). -/
def State.acceptBarge (s : State) (id : Nat) : State :=
  match s.barges.find? (fun b => decide (b.id = id)) with
  | none => s
  | some b =>
    let v := Config.promise s.draws
    let s := { s with
      draws := s.draws + 1
      barges := s.barges.map (fun (x : Barge) => if x.id = id then { x with accepted := true, promise := v } else x) }
    let t := s.tile b.tile
    let t := { t with fifo := t.fifo.filter (fun k => decide (k ≠ id)) }
    s.setTile b.tile (if t.hosts b.job b.task then t.setW b.dreg v else t)

/-- Every request in the FIFO of a tile handed to the engines (R71). -/
def State.acceptAll (s : State) (n : Nat) : State := (s.tile n).fifo.foldl State.acceptBarge s

/-! Tasks of a gang. -/

def Gang.mapTask (g : Gang) (addr : Nat) (f : TaskInfo → TaskInfo) : Gang :=
  { g with tasks := g.tasks.map (fun t => if t.addr = addr && t.owes.isNone then f t else t) }

def Gang.task? (g : Gang) (addr : Nat) : Option TaskInfo := g.tasks.find? (fun t => decide (t.addr = addr) && t.owes.isNone)

def State.mapTask (s : State) (jid gid addr : Nat) (f : TaskInfo → TaskInfo) : State :=
  match s.gang? jid gid with
  | some g => s.setGang jid gid (g.mapTask addr f)
  | none => s

/-- A root of a CONCURRENT gang (R160). -/
def State.isResident (s : State) (jid : Nat) (r : Record) : Bool :=
  match s.recGang jid r with
  | some g => g.desc.cls == 2 && r.depth == r.rootw
  | none => false

/-! Requests with bytes in a scratchpad (R285). -/

/-- What a request has still to read, as base and length (R274, R279, R280). -/
def Barge.unread (b : Barge) : List (Nat × Nat) :=
  b.chans.zipIdx.flatMap (fun e =>
    let o := e.1.wm - e.1.dst
    if b.mcast then
      [(b.src + o, b.clen - o),
       (b.src + b.clen + 32 * b.ostr * e.2 + (max o b.clen - b.clen), b.clen + b.len - max o b.clen)]
    else if b.rowlen = 0 then [(b.src + o, b.len - o)]
    else (upFrom 1 (o / b.rowlen) (b.len / b.rowlen - o / b.rowlen)).map (fun r =>
      let k := if r = o / b.rowlen then o % b.rowlen else 0
      (b.src + r * b.sstr + k, b.rowlen - k)))

/-- Everything a request reads, as base and length. -/
def Barge.reads (b : Barge) : List (Nat × Nat) := Barge.unread { b with chans := b.chans.map (fun c => { c with wm := c.dst }) }

/-- Some byte of [a, a + n) lies in the scratchpad window (R242). -/
def windowHit (a n : Nat) : Bool := decide (max a Config.spBase < min (a + n) Config.spEnd)

/-- Some byte of a request lies in the scratchpad of a tile. -/
def Barge.onTile (b : Barge) (n : Nat) : Bool :=
  (decide (b.tile = n) && b.reads.any (fun x => windowHit x.1 x.2)) || b.chans.any (fun c => decide (c.tile = n) && windowHit c.dst c.len)

/-- A request with bytes in a tile's scratchpad that is neither frozen nor failed (R285). -/
def State.scratchBusy (s : State) (n : Nat) : Bool :=
  s.barges.any (fun (b : Barge) => b.onTile n && b.failed.isNone && b.frozen.isNone)

/-- Frozen requests with bytes in a tile's scratchpad fail before it is saved or wiped (R285). -/
def State.failFrozen (s : State) (n : Nat) : State :=
  { s with barges := s.barges.map (fun (b : Barge) =>
      if b.onTile n && b.failed.isNone then (match b.frozen with
        | some va => { b with failed := some va, frozen := none }
        | none => b) else b) }

/-! Write-back. -/

/-- A record of a running task as it is written back: LIVE, CP, SEQ + 1, EVICTED (R19, R21). -/
def Run.written (r : Run) (cp : Word) (live : Nat) (evicted : Bool) : Record :=
  { r.rcd with cp := cp, live := BitVec.ofNat 16 live, seq := r.rcd.seq + 1 }.setEvicted evicted

/-- The workspace words that a record restores and the record itself written to the frame, after the task's accesses are
released at gang scope, and applied on every copy of a die-hashed page, on whichever die the record resumes (R19, R290, R289, R408).
DEDUCED (log 22): the words above LIVE are not written. -/
def State.writeBack (s : State) (n : Nat) (jid : Nat) (rcd : Record) : Except XFault State := do
  let s := (s.acceptAll n).releaseGang n
  let t := s.tile n
  let s ← s.taskWrite jid (s.siteOf n) rcd rcd.fp.toNat (t.sp.readBytes t.base (8 * rcd.live.toNat))
  let s ← s.taskWrite jid (s.siteOf n) rcd rcd.addr rcd.bytes
  pure s.dhDrain

/-- The tile runs nothing. -/
def State.freeTile (s : State) (n : Nat) : State :=
  let t := s.tile n
  s.setTile n { t with run := none, idle := 0 }

/-- A written-back record left suspended; a root of a CONCURRENT gang waits on its own tile (R16, R160). -/
def State.leaveSuspended (s : State) (n jid : Nat) (rcd : Record) (why : SuspWhy) : State :=
  let s := match s.job? jid with
    | some j => s.setJob jid { j with susp := j.susp ++ [Susp.mk rcd.addr why rcd.seq.toNat] }
    | none => s
  if s.isResident jid rcd then
    let t := s.tile n
    s.setTile n { t with run := none, idle := 0, root := some { rcd := rcd, job := jid, base := t.base } }
  else s.freeTile n

/-- A pending fault or an entry at TRAPVEC kept with a record (R259, R322). -/
def State.addCarry (s : State) (jid addr : Nat) (pend : Option PendFault) (entry : Bool) : State :=
  if pend.isNone && !entry then s
  else match s.job? jid with
    | some j => s.setJob jid { j with carry := j.carry.filter (fun c => decide (c.addr ≠ addr)) ++ [Carry.mk addr pend entry] }
    | none => s

/-! The save pool (R326). -/

/-- Bytes of a saved matrix state: none when it is the reset one. -/
def matNeed (clean : Bool) : Nat := if clean then 0 else 393280

/-- The matrix state that goes with the task a tile runs: none when it is reset, or a waiting root's (R160, R221, R326). -/
def Tile.taskMat (t : Tile) : Option MatState := if t.matClean || t.root.any (·.mat.isNone) then none else some t.mat

/-- Matrix state put in the save pool for a record. -/
def State.keepMat (s : State) (jid addr : Nat) (m : Option MatState) : State :=
  match s.job? jid, m with
  | some j, some m => s.setJob jid { j with pool := j.pool ++ [(addr, m)] }
  | _, _ => s

/-- A tile is in the pre-emption routine. -/
def Tile.saving (t : Tile) : Bool := t.run.any (fun r => r.firm == some .save)

/-- A CONCURRENT gang is being saved: some tile of it has taken PREEMPT and the copy-out is still to come (R327). -/
def State.leaving (s : State) (g : Gang) : Bool :=
  g.out && g.placing == 0 && g.placed.any (fun n => (s.tile n).saving || (s.tile n).saved.isSome)

/-- Bytes of the save pool that the pre-emption of what a tile runs and keeps needs (R326). -/
def State.saveNeed (s : State) (n : Nat) : Nat :=
  let t := s.tile n
  let unit := matNeed t.matClean
  let whole := match t.run with
    | some r => if s.isResident r.job r.rcd then s.spSize n else 0
    | none => 0
  match t.root with
  | some w => s.spSize n + (if w.mat.isNone || t.run.isSome then unit else 0)
  | none => if t.run.isSome then whole + unit else 0

/-- Bytes of the save pool that the saves under way on a tile will take and have not taken yet: from the routine's start to the copy-out,
with its root's when its gang is being stopped as a whole (R326, R327). -/
def State.pledged (s : State) (n : Nat) : Nat :=
  let t := s.tile n
  let mine := match t.saved with
    | some w => matNeed w.matClean
    | none => if t.saving then matNeed t.taskMat.isNone else 0
  let stopping := match s.concurrentOn n with
    | some (jid, gid) => (s.gang? jid gid).any s.leaving
    | none => false
  if !stopping then mine
  else match t.root with
    | some w => s.spSize n + mine + (if w.mat.isNone then matNeed t.matClean else 0)
    | none => if t.saved.any (fun w => s.isResident w.job w.rcd) || t.run.any (fun r => s.isResident r.job r.rcd) then s.spSize n + mine
              else mine

/-- Bytes of the save pool in use in a polder: matrix states of pre-empted tasks, images of the roots of pre-empted gangs, states
set aside for roots that wait on their tiles, and what the saves under way will take. -/
def State.poolUsed (s : State) (q : Nat) : Nat :=
  let sum (l : List Nat) : Nat := l.foldl (· + ·) 0
  let size := spSizeOf (((s.polder? q).map (·.memcfg)).getD 0x2401)
  let mine := s.jobs.filter (fun (e : Nat × Job) => decide (e.2.polder = q))
  sum (mine.map (fun (e : Nat × Job) => 393280 * e.2.pool.length + sum (e.2.gangs.map (fun (g : Nat × Gang) =>
      sum (g.2.saves.map (fun x => size + matNeed x.mat.bytes.isEmpty)))))) +
    sum (s.tiles.map (fun (e : Nat × Tile) => match e.2.root with
      | some w => if w.mat.isSome && mine.any (fun j => decide (j.1 = w.job)) then matNeed w.matClean else 0
      | none => 0)) +
    sum (s.tiles.map (fun (e : Nat × Tile) => if (s.polderOfTile e.1).any (fun p => decide (p.1 = q)) then s.pledged e.1 else 0))

def State.poolRoom (s : State) (n need : Nat) : Bool :=
  need == 0 || (match s.polderOfTile n with
  | some (q, p) => decide (s.poolUsed q + need ≤ 4 * 1572864 * (36 * p.quads.length))
  | none => true)

/-- A running task suspended by a translation fault (R258): written back with LIVE 688 and EVICTED, its matrix state with it unless it
waits on its own tile (R221, R328), its fault posted. Without room for that state the task stalls at the instruction until there is
(R326, log 84), and while a request has bytes in the scratchpad it leaves (R285); frozen ones then fail. A frame that does not translate holds the tile (R408); poison in what is saved is consumed (R146). -/
def State.suspendFault (s : State) (n : Nat) (r : Run) (f : XFault) : State :=
  let rcd := r.written r.pc 688 true
  let t := s.tile n
  let stays := s.isResident r.job r.rcd
  let mat := if stays then none else t.taskMat
  if t.spBad t.base (8 * 688) then s.taskError r.job r.rcd n
  else if !stays && s.scratchBusy n then s.setTile n { t with run := some { r with stall := some ⟨.barge, s.ccy.toNat⟩ } }
  else if !s.poolRoom n (matNeed mat.isNone) then s.setTile n { t with run := some { r with stall := some ⟨.matrixWait, s.ccy.toNat⟩ } }
  else
  let s := if stays then s else s.failFrozen n
  match s.writeBack n r.job rcd with
  | .error g =>
    let s := (s.setTile n { s.tile n with run := some { r with stall := some ⟨.frame, s.ccy.toNat⟩ } })
    s.frameFault n r.job r.gid rcd.addr rcd.seq.toNat g
  | .ok s =>
    let s := s.keepMat r.job rcd.addr mat
    let (s, fn, num) := s.postXlate f r.job r.gid rcd.addr n rcd.seq.toNat (.task r.job rcd.addr)
    (s.addCarry r.job rcd.addr r.pend r.vec).leaveSuspended n r.job rcd (.fault fn num)

/-- A translation fault of a task; a walk that consumed poison is also an error of its gang (R258, R260). -/
def State.faultTask (s : State) (n : Nat) (r : Run) (f : XFault) : State :=
  let s := s.suspendFault n r f
  if f.poison then s.taskError r.job r.rcd n else s

/-! Taking a record (R25, R407). -/

/-- A tile of a territory that may run tasks. -/
def Tile.works (t : Tile) (jid : Nat) : Bool := t.owner == Owner.job jid && t.cess.isNone && t.testing.isNone && !t.dying

/-- The stage of a record is allowed to a tile (R25). -/
def Tile.stageOk (t : Tile) (r : Record) : Bool := t.unrestricted || r.stage == t.strip

/-- A record its tile may run, its stage apart (R27, R53, R160, R407, R408); a waiting root only once the matrix operations of the
others are complete (R160). A gang that is being saved runs nothing more, so that what is saved is one cut (R327). -/
def State.mayRun (s : State) (n jid : Nat) (j : Job) (r : Record) : Bool :=
  let t := s.tile n
  !j.blocked.contains r.addr
    && (match s.concurrentOn n with
      | none => true
      | some (k, gid) => k == jid && r.gang.toNat == gid && !r.handler && (match s.gang? k gid with
        | some g => !s.leaving g && g.placing != 1 && (g.placing != 2 || r.depth == r.rootw)
        | none => true))
    && (match s.recGang jid r with
      | none => r.handler && t.root.isNone
      | some g =>
        g.live && !(g.tasks.any (fun x => decide (x.addr = r.addr) && x.ended && !x.blocked))
          && (!g.reexec || (g.desc.cls == 2 && r.depth == r.rootw) || g.issuer == some r.addr)
          && (g.desc.cls != 2 || (g.placed.contains n
            && (r.depth != r.rootw || g.placed[r.rootIndex]? == some n)))
          && (match t.root with
            | some w => decide (w.rcd.gang = r.gang) && (decide (w.rcd.addr ≠ r.addr) || t.mq.isEmpty)
            | none => true))

/-- A record its tile may take (R25, R407). -/
def State.mayTake (s : State) (n jid : Nat) (j : Job) (r : Record) : Bool := (s.tile n).stageOk r && s.mayRun n jid j r

/-- The same in the tile's own deque: the upcall that R77 put there is taken next, whatever STRIP says. -/
def State.mayTakeOwn (s : State) (n jid : Nat) (j : Job) (r : Record) : Bool :=
  ((s.tile n).stageOk r || (r.handler && r.depth == r.rootw)) && s.mayRun n jid j r

/-- The first record of a list that a tile may take, and the list without it. -/
def pickFirst (p : Record → Bool) : List Record → Option (Record × List Record)
  | [] => none
  | r :: t => if p r then some (r, t) else match pickFirst p t with
    | some (x, u) => some (x, r :: u)
    | none => none

/-- The tile nearest to n among some, ties to the lowest (R25, R407). -/
def nearest (n : Nat) : List Nat → Option Nat
  | [] => none
  | k :: t => match nearest n t with
    | some m => if distance n k < distance n m || (distance n k == distance n m && k < m) then some k else some m
    | none => some k

/-- The record a tile takes, from its deque, the ready queue, or the tail of another deque (R407). -/
def State.findRecord (s : State) (n jid : Nat) (j : Job) : Option (Record × State) :=
  let p := s.mayTake n jid j
  let t := s.tile n
  match pickFirst (s.mayTakeOwn n jid j) t.deque with
  | some (r, d) => some (r, s.putDeque n d)
  | none =>
    match pickFirst p j.ready with
    | some (r, q) => some (r, s.setJob jid { j with ready := q })
    | none =>
      match nearest n ((s.tilesOf jid).filter (fun k => decide (k ≠ n) && (s.tile k).deque.any p)) with
      | none => none
      | some k =>
        match pickFirst p (s.tile k).deque.reverse with
        | some (r, d) => some (r, s.putDeque k d.reverse)
        | none => none

/-- Values a first run starts with: a root's (R30), an upcall's (R75). DESIGN CHOICE (log 130): a SEQ of 0 marks a first run. -/
def State.firstRegs (s : State) (jid : Nat) (r : Record) : List (WReg × Word) :=
  if r.seq ≠ 0 then []
  else if r.handler then
    match (s.job? jid).bind (·.upcallOf r.addr) with
    | some u => if u.args.isEmpty then [] else ((List.range 7).map (fun i => (Fin.ofNat 64 i, u.args.getD i 0))) ++ [(63, r.fp)]
    | none => []
  else if r.depth = r.rootw then
    match s.recGang jid r with
    | some g => [(0, word r.rootIndex), (1, word g.desc.ntask), (2, g.desc.arg0), (3, g.desc.arg1), (63, r.fp)]
    | none => []
  else []

/-- Log entries of one job and stream as one range. -/
def mergeTaint : List Taint → List Taint
  | [] => []
  | x :: t =>
    let u := mergeTaint t
    match u.find? (fun y => decide (y.job = x.job) && decide (y.stream = x.stream)) with
    | some y => { x with lo := min x.lo y.lo, hi := max x.hi y.hi } :: u.filter (fun z => decide (z ≠ y))
    | none => x :: u

/-- A gang noted in the taint log of a tile, which holds 4,096 entries (R340). -/
def Tile.logTaint (t : Tile) (job stream ticket : Nat) : Tile :=
  if t.taint.any (fun x => decide (x.job = job) && decide (x.stream = stream) && decide (x.lo ≤ ticket) && decide (ticket ≤ x.hi)) then t
  else
    let l := t.taint ++ [Taint.mk job stream ticket ticket]
    { t with taint := if 4096 < l.length then mergeTaint l else l }

/-- Matrix state set aside for an evicted record, or none (R326, R328). -/
def Job.pooled (j : Job) (addr : Nat) : Option MatState := (j.pool.find? (fun p => decide (p.1 = addr))).map (·.2)

/-- A saved root back on a tile: its save is free, its journal goes on there (R328, R331). -/
def State.dropSave (s : State) (jid gid addr n : Nat) : State :=
  match s.gang? jid gid with
  | none => s
  | some g =>
    if g.saves.any (fun x => decide (x.addr = addr)) then
      let t := s.tile n
      let root := ((g.tasks.find? (fun x => decide (x.addr = addr))).bind (·.root)).getD 0
      let s := match g.journals.find? (fun x => decide (x.root = root)) with
        | some x => s.setTile n { t with journaling := true, units := x.units, mregs := x.mregs }
        | none => s
      s.setGang jid gid { g with saves := g.saves.filter (fun x => decide (x.addr ≠ addr)) }
    else s

/-! Matrix state kept for a task (R160, R326, R328). -/

/-- The root's matrix state set aside before another task first touches the unit (R160). -/
def Tile.prepMat (t : Tile) : Tile :=
  match t.root with
  | some w =>
    if w.mat.isSome then t
    else { t with root := some { w with mat := some t.mat, matClean := t.matClean }, mat := {}, matClean := true }
  | none => t

/-- The matrix state of a tile for an evicted record: the one set aside for it, else reset (R328); a waiting root's is set aside
first, or left while no other task has touched the unit (R160). -/
def Tile.matFor (t : Tile) (m : Option MatState) : Tile :=
  match m, t.root with
  | some m, _ => { t.prepMat with mat := m, matClean := false }
  | none, some { mat := none, .. } => t
  | none, _ => { t with mat := {}, matClean := true }

/-- The gang of a record that runs on a tile noted in its taint log, and the tile in the gang's measurement (R340, R353). -/
def State.noteTaint (s : State) (n jid : Nat) (r : Record) : State :=
  match s.recGang jid r with
  | some g =>
    let s := s.setTile n ((s.tile n).logTaint jid g.stream g.ticket)
    (match g.meas with
    | some m =>
      if m.tiles.contains n then s
      else s.setGang jid r.gang.toNat { g with meas := some { m with
        tiles := NSet.insert n m.tiles
        base := AMap.set m.base n (s.tile n).total } }
    | none => s)
  | none => s

/-- The record set running on the tile. The tile of one that was evicted is in supervisor mode until the eret that ends the
restore (R328); requests made of its whole gang are made of it (R327). -/
def State.launchRun (s : State) (n jid : Nat) (r : Record) : State :=
  let carry := ((s.job? jid).map (·.carry)).bind (·.find? (fun c => decide (c.addr = r.addr)))
  let g := s.recGang jid r
  let vec := carry.any (·.entry)
  let t := s.tile n
  let t := match g.bind (·.task? r.addr) with
    | some x => if x.fresh then t.setCtl cQCOUNT 0 else match x.qkept with
      | some q => t.setCtl cQCOUNT (word q)
      | none => t
    | none => t
  let s := s.setTile n { t with
    idle := 0
    unrestricted := t.unrestricted && r.stage != t.strip
    sepc := if r.evicted then r.cp else t.sepc
    sstat := if r.evicted then 0 else t.sstat
    run := some { rcd := r, job := jid, pc := r.cp, sup := r.evicted, firm := if r.evicted then some .restore else none,
                  entry := decide (r.seq = 0) || vec, vec := vec, pend := carry.bind (·.pend),
                  reqs := match g with
                    | some g => if g.out && g.placing == 0 then g.stop else []
                    | none => [] } }
  let s := match s.job? jid with
    | some j => s.setJob jid { j with carry := j.carry.filter (fun c => decide (c.addr ≠ r.addr))
                                      pool := j.pool.filter (fun p => decide (p.1 ≠ r.addr)) }
    | none => s
  s.mapTask jid r.gang.toNat r.addr (fun x => { x with fresh := false, qkept := none })

/-- A record restored on a tile and set running (R19, R328, R290). The workspace lies at the top of the scratchpad, or below
that of a waiting root (R131). -/
def State.startRecord (s : State) (n jid : Nat) (r : Record) : Except XFault State := do
  let (s, bs) ← s.devRead jid (s.siteOf n) r.fp.toNat (8 * r.live.toNat) accLoad
  let regs := s.firstRegs jid r
  let s := s.acquire n (if r.seq = 0 && decide (r.depth = r.rootw) then .package else .gang)
  let t := s.tile n
  let t := { t with wp := word (s.spSize n - (if t.root.isSome then 0x3000 else 0x1800)) }
  let save := (s.recGang jid r).bind (fun g => g.saves.find? (fun x => decide (x.addr = r.addr)))
  let t := match save with
    | some x => { t with sp := x.sp, spPoison := x.poison, mat := x.mat, matClean := x.mat.bytes.isEmpty }
    | none => if r.evicted then t.matFor ((s.job? jid).bind (·.pooled r.addr)) else t
  let t := (t.clearWorkspace.putSp t.base bs).asWorkspace
  let t := regs.foldl (fun t x => t.setW x.1 x.2) t
  pure ((((s.setTile n t).noteTaint n jid r).launchRun n jid r).dropSave jid r.gang.toNat r.addr n)

/-- A waiting root resumes: its workspace is where it was, f0 all ones again (R19 step 3, R132), its matrix state comes back (R160,
R290). -/
def State.resumeRoot (s : State) (n jid : Nat) (w : RootWait) (r : Record) : State :=
  let s := s.acquire n .gang
  let t := { s.tile n with wp := word (s.spSize n - 0x1800) }
  let s := s.setTile n { t.asWorkspace with
    root := none
    mat := w.mat.getD t.mat
    matClean := if w.mat.isSome then w.matClean else t.matClean }
  (s.noteTaint n jid r).launchRun n jid r

/-- The waiting root of a tile is the task at a record address. -/
def Tile.awaits (t : Tile) (addr : Nat) : Bool := t.root.any (fun w => decide (w.rcd.addr = addr))

/-- A record taken by a tile: its waiting root, or one restored from its frame. -/
def State.bringIn (s : State) (n jid : Nat) (r : Record) : Except XFault State :=
  match (s.tile n).root with
  | some w => if w.rcd.addr = r.addr then .ok (s.resumeRoot n jid w r) else s.startRecord n jid r
  | none => s.startRecord n jid r

/-- Poison in the frame words that a tile reads to restore a record. -/
def State.frameBad (s : State) (n jid : Nat) (r : Record) : Bool :=
  !(s.tile n).awaits r.addr && s.devBad jid (s.siteOf n) r.fp.toNat (8 * r.live.toNat) accLoad

/-- An idle tile takes a record from a queue. One that fails its checks is gone (R14, R15); a frame that does not translate leaves
the record where it stands (R408), a poisoned one is an error of its gang (R330). -/
def State.takeOther (s : State) (n jid : Nat) : Option State :=
  match s.job? jid with
  | none => none
  | some j0 =>
    let s := s.settleReady jid
    match (s.job? jid).bind (s.findRecord n jid) with
    | none => if j0.pending.isEmpty then none else some s
    | some (r, s') =>
      match s'.liftRecord jid n r with
      | (s', none) => some s'
      | (s', some r) =>
        if s'.frameBad n jid r then some (s'.taskError jid r n)
        else match s'.bringIn n jid r with
          | .ok s'' => some (s''.settleReady jid)
          | .error f => some (s.frameFault n jid r.gang.toNat r.addr r.seq.toNat f)

/-- An idle tile takes the next record it may (R407). -/
def State.take (s : State) (n : Nat) : Option State :=
  let t := s.tile n
  match t.owner with
  | .job jid => if t.run.isSome || !t.works jid || t.saved.isSome then none else s.takeOther n jid
  | _ => none

/-! Placing a created record (R25, R407). -/

/-- Records of a job in spill shares: a deque holds 32 in hardware (R407). The shares are taken together (log 23). -/
def State.spillUsed (s : State) (jid : Nat) : Nat :=
  ((s.tilesOf jid).map (fun n => (s.tile n).deque.length - 32)).foldl (· + ·) 0

def State.dequeRoom (s : State) (jid n : Nat) : Bool :=
  (s.tile n).deque.length < 32 || decide (s.spillUsed jid < ((s.job? jid).map (·.spillN)).getD 0)

/-- The tile whose deque receives a record of a stage created on tile n (R25). -/
def State.placeTile (s : State) (n jid : Nat) (g : Option Gang) (stage : BitVec 16) : Nat :=
  if (s.tile n).strip = stage then n
  else
    let own := match g with
      | some g => if g.desc.cls = 2 then g.placed else s.tilesOf jid
      | none => s.tilesOf jid
    (nearest n (own.filter (fun k => decide ((s.tile k).strip = stage)))).getD n

def State.pushDeque (s : State) (n : Nat) (r : Record) (head : Bool) : State :=
  let d := (s.tile n).deque
  s.putDeque n (if head then r :: d else d ++ [r])

/-! A gang's retirement (R158, R342 step 1). -/

/-- The last live task has ended: the final batch is sealed, the gang's tiles are free of it, its save-pool space too. -/
def State.retireGang (s : State) (jid gid : Nat) : State :=
  match s.gang? jid gid with
  | none => s
  | some g =>
    let g' := { g.seal false (fun _ => true) with phase := .retired, tasks := [], journals := [], placed := [], saves := [] }
    let s := s.setGang jid gid { g' with batches := g'.batches.map (fun b => { b with held := false }) }
    { s with tiles := s.tiles.map (fun (e : Nat × Tile) =>
        if g.placed.contains e.1 then (e.1, { e.2 with journaling := false, units := [], mregs := [] }) else e) }

/-! Decrements of JC (R20). -/

/-- JC of a record less one; none when JC is 0. -/
def Record.dec (r : Record) : Option Record := if r.jc = 0 then none else some { r with jc := r.jc - 1 }

/-- What a decrement finds. -/
inductive Dec where
  | absent
  | zero
  | ok (s : State)

def decIn (addr : Nat) : List Record → Option (Option (List Record))
  | [] => none
  | r :: t =>
    if r.addr = addr then some ((r.dec).map (fun r => r :: t))
    else (decIn addr t).map (fun o => o.map (fun t => r :: t))

/-- A decrement of a record in a queue or on a tile, or on its way to the pending list. -/
def State.decHeld (s : State) (jid addr : Nat) (j : Job) : Dec :=
  match s.tiles.find? (fun (e : Nat × Tile) => e.2.hosts jid addr) with
  | some (n, t) =>
    (match t.run with
    | some r => (match r.rcd.dec with
      | some x => .ok (s.setTile n { t with run := some { r with rcd := x } })
      | none => .zero)
    | none => .absent)
  | none =>
    match decIn addr j.ready with
    | some (some q) => .ok (s.setJob jid { j with ready := q })
    | some none => .zero
    | none =>
      match (s.tiles.filter (fun (e : Nat × Tile) => ownedBy e.2.owner jid)).findSome? (fun (e : Nat × Tile) =>
          (decIn addr e.2.deque).map (fun o => (e.1, o))) with
      | some (n, some d) => .ok (s.setTile n { s.tile n with deque := d })
      | some (_, none) => .zero
      | none =>
        match s.tiles.find? (fun (e : Nat × Tile) => e.2.saved.any (fun w => decide (w.job = jid) && decide (w.rcd.addr = addr))) with
        | some (n, t) =>
          (match t.saved with
          | some w => (match w.rcd.dec with
            | some x => .ok (s.setTile n { t with saved := some { w with rcd := x } })
            | none => .zero)
          | none => .absent)
        | none =>
          if j.susp.any (fun p => decide (p.addr = addr)) then .absent
          else match j.gangs.findSome? (fun (e : Nat × Gang) => (decIn addr e.2.ousted).map (fun o => (e.1, e.2, o))) with
          | some (k, g, some rs) => .ok (s.setGang jid k { g with ousted := rs })
          | some (_, _, none) => .zero
          | none => match decIn addr (j.unwritten.map (·.rcd)) with
            | some (some rs) => .ok (s.setJob jid { j with unwritten := List.zipWith (fun u r => { u with rcd := r }) j.unwritten rs })
            | some none => .zero
            | none => .absent

/-- A record of a queue whose bytes stand in job memory, or came from there: where, and the bytes (log 30). -/
def State.imageOf (s : State) (jid addr : Nat) : Option (RecPlace × State × List Byte) :=
  match (s.job? jid).bind (fun j => AMap.get? j.images addr) with
  | none => none
  | some (.hard bs) => some (.hard bs, s, bs)
  | some (.mem va) => match s.devRead jid (s.jobSite jid) va 64 accLoad with
    | .ok (s, bs) => some (.mem va, s, bs)
    | .error _ => none

/-- The bytes of such a record replaced. -/
def State.putImage (s : State) (jid addr : Nat) (x : Record) : RecPlace → Except XFault State
  | .mem va => s.taskWrite jid (s.jobSite jid) x va x.bytes
  | .hard _ => .ok (match s.job? jid with
    | some j => s.setJob jid { j with images := AMap.set j.images addr (.hard x.bytes) }
    | none => s)

/-- The record of a queue replaced. -/
def State.swapRecord (s : State) (jid addr : Nat) (x : Record) : State :=
  let put (l : List Record) : List Record := l.map (fun r => if r.addr = addr then x else r)
  let s := { s with tiles := s.tiles.map (fun (e : Nat × Tile) =>
    if ownedBy e.2.owner jid then (e.1, { e.2 with deque := put e.2.deque }) else e) }
  match s.job? jid with
  | some j => s.setJob jid { j with ready := put j.ready }
  | none => s

/-- A decrement for a parent that has ended before its children (R20, log 60). -/
def Gang.decEnded (g : Gang) (addr : Nat) : Option Gang :=
  match g.outlived.find? (fun p => decide (p.1 = addr)) with
  | some p => some { g with outlived := g.outlived.erase p ++ (if p.2 ≤ 1 then [] else [(addr, p.2 - 1)]) }
  | none => none

/-- An uncorrectable error met at the record of a parent: its child's gang's, or the child's own in the border context (R20,
R410). The tile is the child's, which acts at done; none acts at the close of a quantum. -/
def State.decError (s : State) (jid gid addr : Nat) (child : Option Record) : State :=
  let f (tile : Nat) : Failure := { detail := 3, code := 0x0F, task := addr, tile := tile, seq := s.seqOf jid addr }
  match child with
  | some r => if r.handler then s.taskError jid r s.cur else s.gangError jid gid (f s.cur)
  | none => s.gangError jid gid (f 0xFFFF)

/-- The decrement of the record at PARENT (R20), for a child's gang: in a queue or on a tile, else where it lies in memory;
the one that brings a suspended join to zero wakes it. The fault of the record's frame (R408). DESIGN CHOICE (log 106): R20 says
what a decrement at JC = 0 does; one that finds bytes whose CHK is wrong changes nothing either, and raises the same event. -/
def State.decJC (s : State) (jid gid addr : Nat) (child : Option Record) : Except XFault State :=
  match s.job? jid with
  | none => .ok s
  | some j =>
    match s.imageOf jid addr with
    | some (place, s, bs) =>
      (match chkOk bs, (Record.ofBytes bs).dec with
      | true, some x => (s.swapRecord jid addr x).putImage jid addr x place
      | _, _ => .ok (s.decError jid gid addr child))
    | none =>
    match s.decHeld jid addr j with
    | .ok s => .ok s
    | .zero => .ok (s.decError jid gid addr child)
    | .absent =>
      match (s.gang? jid gid).bind (·.decEnded addr) with
      | some g => .ok (s.setGang jid gid g)
      | none =>
      match s.devRead jid (s.jobSite jid) addr 64 accLoad with
      | .error f => .error f
      | .ok (s, bs) =>
        match chkOk bs, (Record.ofBytes bs).dec with
        | true, some x =>
          (match s.taskWrite jid (s.jobSite jid) x addr x.bytes with
          | .error f => .error f
          | .ok s =>
            if x.jc = 0 && j.susp.any (fun p => decide (p.addr = addr) && p.why == SuspWhy.join) then .ok (s.wake jid addr false)
            else .ok s)
        | _, _ => .ok (s.decError jid gid addr child)

end Sys2Proof.Machine
end

