-- ==== Sys2Proof/Machine/Ops.lean ====
section
/-! DEFINITION. Ops.lean: what every instruction shares. Register reads and writes, how an instruction ends (it retires, traps,
stalls, is suspended by a translation fault, or consumes an error), taking an exception and returning from one (R320 to R323),
death of a tile (R339), transfers of control (R154). -/
namespace Sys2Proof.Machine

/-! A dead tile (R339, R285). -/

/-- A tile marked dead: its tasks' gangs fail, dirty lines go home poisoned, its scratchpad requests fail, a move of it is
abandoned, the records of its deque go to the ready queue. Its effect on the territory waits for the end of the phase (R78). -/
def State.markDead (s : State) (n : Nat) : State :=
  let t := s.tile n
  if t.dying || t.owner == Owner.dead then s
  else
    let s := t.l1.foldl (fun s l => if l.dirty = 0 then s else s.cleanBytes n { l with poison := BitVec.allOnes 4 }) s
    let s := { s with barges := s.barges.map (fun (b : Barge) =>
      if b.onTile n && b.failed.isNone then { b with failed := some b.dst } else b) }
    let s := s.tileErr n 8
    let keep := t.cess.bind (·.taker)
    let s := s.setTile n { s.tile n with
      run := none, root := none, saved := none, l1 := [], slots := [], mq := [], msg := none, swap := none, dying := true
      deque := [], fifo := [], cess := none, testing := none
      owner := match t.owner, keep with
        | .transit j, some _ => .job j
        | o, _ => o }
    let s := match t.owner with
      | .job j | .transit j => t.deque.foldl (fun (s : State) r => s.moveReady j n r false) s
      | _ => s
    let f : Failure := { detail := 4, tile := n }
    let s := match t.run with
      | some r => s.failTask r.job r.rcd f
      | none => s
    let s := match t.root with
      | some w => s.failTask w.job w.rcd f
      | none => s
    let s := match t.saved with
      | some w => s.failTask w.job w.rcd f
      | none => s
    let placed := s.jobs.flatMap (fun (e : Nat × Job) =>
      (e.2.liveGangs.filter (fun x => x.2.placed.contains n)).map (fun x => (e.1, x.1, x.2.placing)))
    placed.foldl (fun (s : State) x => if x.2.2 = 1 then s.unplace x.1 x.2.1 else s.failGang x.1 x.2.1 f) s

/-! How an instruction may fail to complete. -/

/-- Why an instruction does not retire: a trap of class T with its TVAL, a stall, a translation failure, an uncorrectable
error consumed, staging exhausted by the head (R299). -/
inductive Why where
  | trap (cause : Nat) (tval : Word)
  | stall (k : StallKind)
  | xlate (f : XFault)
  | ue
  | exhausted

/-- The reason, the state the instruction leaves when it is not the one it started from, and a change to the state it leaves. -/
structure Exn where
  why : Why
  keep : Option State := none
  mark : State → State := id

/-- An instruction's effect. -/
abbrev M := StateT State (Except Exn)

/-- Where control goes: the next slot, a PC, or away from the task (its record has left the tile, or the PC is set). -/
inductive Flow where
  | next
  | goto (pc : Word)
  | left

def fail {α : Type} (w : Why) : M α := fun _ => .error { why := w }
/-- As `fail`, the state so far staying. -/
def failKeep {α : Type} (w : Why) : M α := fun s => .error { why := w, keep := some s }

def trap {α : Type} (cause : Nat) (tval : Word) : M α := fail (.trap cause tval)
def stall {α : Type} (k : StallKind) : M α := fail (.stall k)

/-- The executing tile, and what it runs. -/
def tileM : M Tile := fun s => .ok (s.tile s.cur, s)
def runM : M Run := fun s => match (s.tile s.cur).run with
  | some r => .ok (r, s)
  | none => .error { why := .ue }
def modTile (f : Tile → Tile) : M Unit := fun s => .ok ((), s.setTile s.cur (f (s.tile s.cur)))
def modState (f : State → State) : M Unit := fun s => .ok ((), f s)

/-- An instruction that is not legal where it stands, or not an instruction: TVAL the slot PC (R102). -/
def illegal {α : Type} : M α := do trap 0x01 (← runM).pc

/-! Channels of barge requests (R278, R139). -/

def inWindow (a : Nat) : Bool := decide (Config.spBase ≤ a) && decide (a < Config.spEnd)

/-- A channel holds back an access of a tile to [va, va + n): some byte of it lies in the channel at or above WM, those of the window in
the scratchpad of the channel's tile (R242, R278). -/
def Channel.blocks (c : Channel) (tile va n : Nat) : Bool :=
  let lo := max (max c.wm c.dst) va
  let hi := min (va + n) (c.dst + c.len)
  decide (lo < hi) && (decide (c.tile = tile) || decide (lo < Config.spBase) || decide (Config.spEnd < hi))

/-- The stall of an instruction of a task on a frozen request has raised its BARGE_FAULT (R284). -/
def State.seenStall (s : State) (id addr pc : Nat) : State :=
  { s with barges := s.barges.map (fun (x : Barge) => if x.id = id then { x with seen := (addr, pc) :: x.seen } else x) }

/-- An access to [va, va + n) waits while a channel of the gang's requests holds it back (R278). A frozen request among them raises
BARGE_FAULT at each instruction that stalls on it, once (R284, log 102); what the instruction has done so far is undone (R142,
R216). DEDUCED (log 102): so does a vector instruction whose register read stalls (R139), though R193 does not list that trap. -/
def chanWait (va n : Nat) : M Unit := fun s =>
  match (s.tile s.cur).run with
  | none => .ok ((), s)
  | some r =>
    let holds (b : Barge) : Bool := decide (b.job = r.job) && decide (b.gang = r.gid) && b.failed.isNone
        && b.chans.any (fun c => c.blocks s.cur va n)
    if s.barges.any holds then
      match s.barges.find? (fun b => holds b && b.frozen.isSome && !b.seen.contains (r.taskAddr, r.pc.toNat)) with
      | some b => .error { why := .trap 0x09 (word (b.frozen.getD 0)), mark := (·.seenStall b.id r.taskAddr r.pc.toNat) }
      | none => .error { why := .stall .channel }
    else .ok ((), s)

/-! Registers. -/

/-- Bytes [o, o + n) of the scratchpad read as registers: a channel holds the read back (R139), poison is an uncorrectable
error (R146). -/
def regBytes (o n : Nat) : M Unit := do
  chanWait (Config.spBase + o) n
  if (← tileM).spBad o n then fail .ue else pure ()

/-- The task waits for the promise of its request to be written to w(k) (R275). -/
def State.promiseWait (s : State) (k : WReg) : Bool :=
  match (s.tile s.cur).run with
  | some r => s.barges.any (fun (b : Barge) => decide (b.job = r.job) && decide (b.task = r.taskAddr) && decide (b.dreg = k)
      && !b.accepted && b.failed.isNone)
  | none => false

def rdW (k : WReg) : M Word := do
  let t ← tileM
  regBytes (t.wAt k) 8
  if (← get).promiseWait k then stall .promise else pure (t.w k)

def rdV (k : VReg) : M VWord := do
  let t ← tileM
  regBytes (t.vAt k) 128
  pure (t.v k)

def rdF (k : FReg) : M FWord := do
  let t ← tileM
  if k = 0 then pure onesF
  else do
    regBytes (t.fAt k) 16
    pure (t.f k)

def rdB : OpB → M Word
  | .reg b => rdW b
  | .imm v => pure (v.signExtend 64)

def wrW (k : WReg) (v : Word) : M Unit := modTile (fun t => t.setW k v)
def wrV (k : VReg) (v : VWord) : M Unit := modTile (fun t => t.setV k v)
def wrF (k : FReg) (v : FWord) : M Unit := modTile (fun t => t.setF k v)
def stickM (f : Fl) : M Unit := modTile (fun t => t.stick f)
def meterM (k d : Nat) : M Unit := modTile (fun t => t.tally k d)

/-- f(PF) exclusive-or PN (R95). -/
def rdPred (p : Pred) : M FWord := do
  let f ← rdF p.f
  pure (if p.neg then ~~~f else f)

/-! Retirement of an instruction. -/

/-- What one retired instruction counts in task mode: RETINST (R351), LATCH when it was not zero before (R163), QCOUNT under
DSM, whose full count ends the task's part of the quantum (R53). DESIGN CHOICE (log 131): a LATCH above 256, which a frame's words can
bring, is counted down as it stands. -/
def State.countRetired (s : State) (n : Nat) (latched : Bool) : State :=
  match (s.tile n).run with
  | none => s
  | some r =>
    if r.sup then s
    else
      let t := (s.tile n).count 38 1
      let t := if latched then t.bumpCtl cLATCH (word ((t.ctl cLATCH).toNat - 1)) else t
      match s.runGang r with
      | some g =>
        if g.desc.dsm then
          let q := (t.ctl cQCOUNT).toNat + 1
          let s := s.setTile n (t.bumpCtl cQCOUNT (word q))
          if 2 ^ g.desc.qlog2 ≤ q then s.mapTask r.job r.gid r.taskAddr (fun x => { x with ended := true }) else s
        else s.setTile n t
      | none => s.setTile n t

/-- An instruction retires; the next one is at `pc`. -/
def State.retire (s : State) (n : Nat) (latched : Bool) (pc : Word) : State :=
  let s := s.countRetired n latched
  let t := s.tile n
  s.setTile n { t with run := t.run.map (fun r =>
    { r with pc := pc, stall := none, entry := false, vec := false, verdict := none, sent := none, begun := none, swapped := none }) }

/-! Taking an exception (R322) and returning from one (R157, R323). -/

/-- Trap state written, PC at TRAPVEC. -/
def Tile.enterTrap (t : Tile) (r : Run) (cause : Nat) (tval : Word) : Tile :=
  let vec := t.ctl cTRAPVEC
  let t := ((t.setCtl cTCAUSE (word (2 ^ 63 + cause))).setCtl cTVAL tval).setCtl cTPC (if cause = 0x13 then nextPc r.pc else r.pc)
  { t with run := some { r with pc := vec, entry := true, vec := true, stall := none, pend := none, verdict := none, sent := none, begun := none, swapped := none } }

/-- The checks of an entry have passed: the first instruction is no entry any more (R89, R322). -/
def State.entered (s : State) (n : Nat) : State :=
  let t := s.tile n
  s.setTile n { t with run := t.run.map (fun r => { r with entry := false, vec := false }) }

/-- A cause of class T raised by what a tile runs. In task mode it is delivered to TRAPVEC; with INTRAP set, TRAPVEC zero, or
an entry that fails checks 1, 2, 4 or 5 of R87, the gang fails (or the upcall ends, R410); a translation failure of the entry
suspends the task (R322). Poison in TRAPVEC or TCAUSE, which the entry reads, is consumed (R146). In supervisor mode it is a
machine check (R323). -/
def State.takeTrap (s : State) (n : Nat) (r : Run) (cause : Nat) (tval : Word) : State :=
  if r.sup then s.markDead n
  else
    let t := s.tile n
    if t.spBad (t.base + cTRAPVEC) 16 then s.taskError r.job r.rcd n
    else if (t.ctl cTCAUSE).getLsbD 63 then
      s.failTask r.job r.rcd { detail := 2, tval := tval.toNat, code := cause, tile := n }
    else if t.ctl cTRAPVEC = 0 then
      s.failTask r.job r.rcd { detail := 1, tval := tval.toNat, code := cause, tile := n }
    else
      let t' := t.enterTrap r cause tval
      let s := s.setTile n t'
      match t'.run with
      | none => s
      | some r' =>
        match s.fetchCheck n r' r'.pc true with
        | .ok (s, _, _) => s.entered n
        | .error (.trap s c) => s.failTask r.job r.rcd { detail := 2, tval := r'.pc.toNat, code := c, tile := n }
        | .error (.xlate f) => s.faultTask n r' f
        | .error (.poison s) => s.taskError r.job r.rcd n

/-- uret: PC := TPC, INTRAP := 0; illegal in supervisor mode (R157). -/
def trapReturn : M Flow := do
  let t ← tileM
  let r ← runM
  if r.sup then illegal
  else do
    regBytes (t.base + cTCAUSE) 16
    modTile (fun t => t.setCtl cTCAUSE ((t.ctl cTCAUSE) &&& ~~~(word (2 ^ 63))))
    pure (.goto (t.ctl cTPC))

/-- eret: to SEPC in the mode of PMODE; illegal in task mode (R157, R323). The eret that ends the restore of a record leaves what
the record resumes with (R328). -/
def supReturn : M Flow := do
  let r ← runM
  if !r.sup then illegal
  else do
    let on := r.firm.isSome
    modTile (fun t => { t with run := some { r with
      pc := t.sepc, sup := t.sstat.getLsbD 0, stall := none, firm := none, entry := r.entry && on, vec := r.vec && on } })
    pure .left

/-! Transfers of control (R154, R90). -/

/-- Checks 1 to 5 of R87 on a target. -/
def checkTarget (pc : Word) : M Unit := do
  let r ← runM
  fun s => match s.fetchCheck s.cur r pc true with
    | .ok (s, _, _) => .ok ((), s)
    | .error (.trap s c) => .error { why := .trap c pc, keep := some s }
    | .error (.xlate f) => .error { why := .xlate f }
    | .error (.poison s) => .error { why := .ue, keep := some s }

/-! One instruction. -/

/-- The event of R353 that a stall begins: a staging stall or a watermark stall. -/
def StallKind.event : StallKind → Option Nat
  | .staging => some 10
  | .channel => some 11
  | _ => none

/-- A stall counted when it begins (R353). -/
def Tile.stallEvent (t : Tile) (k : StallKind) : Tile :=
  match k.event with
  | some c => if t.run.any (fun r => r.stall.any (fun x => x.kind == k)) then t else t.event c
  | none => t

/-- A stall noted at the instruction, its first cycle kept (R163). -/
def State.noteStall (s : State) (n : Nat) (k : StallKind) : State :=
  let t := (s.tile n).stallEvent k
  s.setTile n { t with run := t.run.map (fun r =>
    { r with stall := some ⟨k, match r.stall with | some x => x.since | none => s.ccy.toNat⟩ }) }

/-- What becomes of the state when an instruction of the task `r` has been carried out, or has failed. -/
def settle (s : State) (r : Run) (latched : Bool) : Except Exn (Flow × State) → State
  | .ok (.next, s') => s'.retire s.cur latched (nextPc r.pc)
  | .ok (.goto pc, s') => s'.retire s.cur latched pc
  | .ok (.left, s') => s'
  | .error x =>
    let k := x.mark (x.keep.getD s)
    match x.why with
    | .trap c v => k.takeTrap s.cur (((k.tile s.cur).run).getD r) c v
    | .stall w => k.noteStall s.cur w
    | .xlate f => k.faultTask s.cur r f
    | .ue => k.taskError r.job r.rcd s.cur
    | .exhausted => k.failTask r.job r.rcd { detail := 6, tile := s.cur }

/-- An instruction governed as a whole by bit 0 of its predicate (R95). -/
def whole (p : Pred) (body : M Flow) : M Flow := do
  if (← rdPred p).getLsbD 0 then body else pure .next

/-- Bytes of the workspace that a request of the task has still to read: offset and length (R279). -/
def State.workReads (s : State) (r : Run) : List (Nat × Nat) :=
  let lo := Config.spBase + (s.tile s.cur).base
  let mine := s.barges.filter (fun (b : Barge) => decide (b.job = r.job) && decide (b.task = r.taskAddr) && b.failed.isNone)
  ((mine.flatMap Barge.unread).filter (fun x => decide (max x.1 lo < min (x.1 + x.2) (lo + Config.frameSize)))).map (fun x =>
    (max x.1 lo - Config.spBase, min (x.1 + x.2) (lo + Config.frameSize) - max x.1 lo))

/-- An instruction has changed a register's byte that a request of its task has still to read (R279). -/
def State.readsChanged (s s' : State) (r : Run) : Bool :=
  (s.workReads r).any (fun x => (s.tile s.cur).sp.readBytes x.1 x.2 != (s'.tile s.cur).sp.readBytes x.1 x.2)

/-- A write to bytes that a request of the task has still to read waits, a register's in the workspace too (R222, R279, R138): the
instruction is undone and stalls. -/
def holdWrites (s : State) (r : Run) : Except Exn (Flow × State) → Except Exn (Flow × State)
  | .ok (.next, s') => if s.readsChanged s' r then .error { why := .stall .barge } else .ok (.next, s')
  | .ok (.goto pc, s') => if s.readsChanged s' r then .error { why := .stall .barge } else .ok (.goto pc, s')
  | x => x

/-- An instruction carried out by the task the current tile runs. -/
def perform (body : M Flow) (s : State) : Host.Outcome State Fault Refusal :=
  match (s.tile s.cur).run with
  | none => .fault .noTask
  | some r => .next (settle s r (decide ((s.tile s.cur).ctl cLATCH ≠ 0)) (holdWrites s r (body s)))

/-- Register-only bodies end at the next slot. -/
def andNext (m : M Unit) : M Flow := do m; pure .next

/-! The gang of the running task. -/

def gangM : M (Option Gang) := do
  let r ← runM
  pure ((← get).runGang r)

/-- A change to the gang of the running task. -/
def modGang (f : Gang → Gang) : M Unit := do
  let r ← runM
  modState (fun s => match s.runGang r with
    | some g => s.setGang r.job r.gid (f g)
    | none => s)

/-- A change to the running task's entry in its gang. -/
def modTask (f : TaskInfo → TaskInfo) : M Unit := do
  let r ← runM
  modGang (fun g => g.mapTask r.taskAddr f)

/-- The counts of R53 of an instruction after which the task leaves its tile. -/
def countM : M Unit := fun s =>
  .ok ((), s.countRetired s.cur (decide ((s.tile s.cur).ctl cLATCH ≠ 0)))

end Sys2Proof.Machine
end

