-- ==== Sys2Proof/Machine/Access.lean ====
section
/-! DEFINITION. Access.lean: data accesses of a task. Their checks in order (R243, R262, R33, R135, R242), loads and stores of
elements at each place (R244, R264, R265, R300), barge ranges that hold a store back (R279). -/
namespace Sys2Proof.Machine

/-- The kinds of access R33, R268, R308 and R313 tell apart. -/
inductive Kind where
  | load | store | konst
  /-- amo and red: the store column, never a die-hashed page -/
  | update
  /-- amof: both columns, never a die-hashed page -/
  | returning
  deriving DecidableEq, Repr

def Kind.need : Kind → Need
  | .load | .konst => .read
  | .store | .update | .returning => .write

def Kind.acc : Kind → Nat
  | .load | .konst => accLoad
  | .store => accStore
  | .update | .returning => accAtomic

def Kind.writes (k : Kind) : Bool := k.need == .write

/-- The cause a byte fails with under checks 1 to 3 of R243 and R135, in that order; none when it passes. A returning atomic on the job
control block is one of the other accesses of R33, since R308 permits it in the scratchpad, PRIV and INOUT alone (log 32). -/
def placeFault (k : Kind) (size : Nat) (t : Tile) : Place → Option Nat
  | .badAddr => some 0x06
  | .gap => some 0x06
  | .window o =>
    if size ≤ o then some 0x06
    else if k = .konst then some 0x07
    else if k.writes && t.inControl o && !t.run.any (·.sup) then some 0x06
    else none
  | .jcb o =>
    (match k with
    | .load => none
    | .konst => some 0x07
    | .store | .update => if o < 0x100 then none else some 0x06
    | .returning => some 0x07)
  | .foot f =>
    (match k, f with
    | .konst, _ => some 0x07
    | .load, .out => some 0x07
    | .load, _ => none
    | .store, .inp | .update, .inp => some 0x07
    | .store, _ | .update, _ => none
    | .returning, .inp | .returning, .out => some 0x07
    | .returning, _ => none)
  | .const => if k.writes then some 0x07 else none
  | .outside => some 0x07

/-- One element of an access: its address and length, where it lies, its translation where it has one. -/
structure Lane where
  va : Nat
  n : Nat
  place : Place
  xl : Option Xlat := none
  deriving DecidableEq, Repr

/-- ldc sees constant regions only, whatever else covers a byte (R268). -/
def placeFor (k : Kind) (foot : List Foot) (consts : List Region) (va : Nat) : Place :=
  let p := placeOf foot consts va
  if k = .konst && (match p with | .foot _ => true | .outside => true | _ => false) then
    (if inRegions consts va then .const else .outside)
  else p

/-- The lowest of some failing bytes: address and cause. -/
def lowestFault : List (Nat × Nat) → Option (Nat × Nat)
  | [] => none
  | x :: t => match lowestFault t with
    | some y => if y.1 < x.1 then some y else some x
    | none => some x

/-- Bytes of [va, va + n) that fail a precise check. -/
def byteFaults (k : Kind) (size : Nat) (t : Tile) (foot : List Foot) (consts : List Region) (va n : Nat) : List (Nat × Nat) :=
  (upFrom 1 va n).filterMap (fun a => (placeFault k size t (placeFor k foot consts a)).map (fun c => (a, c)))

/-- Where translation is needed: footprint and constant bytes. -/
def Place.walked : Place → Bool
  | .foot _ | .const => true
  | _ => false

/-- Translation of the lanes that need it, the state with the caches filled; the precise fault of check 5, and the first
translation failure (R243, R262). -/
def xlateLanes (tile jid : Nat) (k : Kind) : State → List Lane → State × List Lane × List (Nat × Nat) × Option XFault
  | s, [] => (s, [], [], none)
  | s, l :: t =>
    if !l.place.walked then
      let (s, ls, ps, f) := xlateLanes tile jid k s t
      (s, l :: ls, ps, f)
    else
      match s.translate tile jid l.va k.acc k.need with
      | .ok x =>
        let (s, ls, ps, f) := xlateLanes tile jid k (s.fillXlat tile jid l.va k.need x) t
        let bad := (k = .update || k = .returning) && x.slp = 1
        (s, { l with xl := some x } :: ls, (if bad then (l.va, 0x06) :: ps else ps), f)
      | .error e =>
        let (s, ls, ps, f) := xlateLanes tile jid k (s.walked jid (s.siteOf tile) l.va) t
        (s, l :: ls, ps, match f with | some g => if g.va < e.va then some g else some e | none => some e)

/-- The checks of R243 on every byte of every element, precise faults first (R262). -/
def checkLanes (k : Kind) (ls : List (Nat × Nat)) : M (List Lane) := do
  let r ← runM
  let t ← tileM
  let s ← get
  let size := s.spSize s.cur
  let foot := s.footOf r
  let consts := s.constsOf r
  match lowestFault (ls.flatMap (fun l => byteFaults k size t foot consts l.1 l.2)) with
  | some (a, c) => trap c (word a)
  | none =>
    let lanes := ls.map (fun l => (⟨l.1, l.2, placeFor k foot consts l.1, none⟩ : Lane))
    let (s, lanes, ps, f) := xlateLanes s.cur r.job k s lanes
    match lowestFault ps, f with
    | some (a, c), _ => trap c (word a)
    | none, some e => fail (.xlate e)
    | none, none =>
      set s
      pure lanes

/-! Barge requests that an access meets (R278, R279). -/

/-- Bytes of [va, va + n) that a request has still to read. -/
def Barge.readsPast (b : Barge) (va n : Nat) : Bool :=
  b.unread.any (fun x => decide (max x.1 va < min (x.1 + x.2) (va + n)))

/-- A store waits while a request of its task has still to read the bytes (R279). -/
def readWait (va n : Nat) : M Unit := do
  let r ← runM
  let s ← get
  if s.barges.any (fun (b : Barge) => decide (b.job = r.job) && decide (b.task = r.taskAddr) && b.failed.isNone
      && b.readsPast va n) then stall .barge
  else pure ()

/-! Places. -/

/-- The physical key of an element for a requester at a site. -/
def Lane.key (l : Lane) (site : Nat) : Nat :=
  match l.xl with
  | some x => x.key site l.va
  | none => 0

/-- The key under which staged entries hold an address: a die-hashed page by its copy on the lowest die (R298). -/
def State.stageKey (s : State) (jid : Nat) (x : Xlat) (va : Nat) : Nat := x.key (s.jobSite jid) va

/-- Slice and set of a staged entry (R298). -/
def State.stagePlace (s : State) (jid : Nat) (x : Xlat) (va : Nat) : Nat × Nat :=
  let pa := x.ppage * 65536 + va % 65536
  match (s.job? jid).bind (fun j => s.polder? j.polder) with
  | some p => (homeSlice p x (s.jobSite jid) pa, pa / 128 % 4096)
  | none => (0, pa / 128 % 4096)

/-- One entry staged by the running task; a stall of a gang that is not its stream's head lasts until it is (R298, R299). -/
def stageM (eff : Eff) (va slice set : Nat) (uses : List Xlat := []) : M Unit := do
  let r ← runM
  let s ← get
  match s.job? r.job, s.runGang r with
  | some j, some g =>
    let waits := r.stall.any (fun x => x.kind == .staging) && !g.head j
    (match (if waits then .full else s.stage j g r.rcd.key eff va slice set (s.siteOf s.cur) uses) with
    | .ok g' => modState (fun s => s.setGang r.job r.gid g')
    | .full => stall .staging
    | .exhausted => fail .exhausted)
  | _, _ => illegal

/-- The bytes of an element as the task sees them (R244, R242, R300, R314). `l1` collects the L1 lines read. -/
def loadLane (l : Lane) : M (List Byte) := do
  chanWait l.va l.n
  let s ← get
  let r ← runM
  match l.place with
  | .window o =>
    let t ← tileM
    if t.spBad o l.n then fail .ue else pure (t.taskBytes o l.n)
  | .jcb o =>
    let a := match s.job? r.job with
      | some j => j.jcbpa + o
      | none => 0
    if s.memBad a l.n then fail .ue
    else do
      let (s, bs) := s.homeRead a l.n
      set s
      pure bs
  | .foot .inout =>
    (match l.xl, s.runGang r with
    | some x, some g => do
      let (s, bs, bad) := s.view g (s.stageKey r.job x l.va) l.n (x.key (s.siteOf s.cur) l.va)
      if bad then fail .ue else do
        set s
        pure bs
    | _, _ => illegal)
  | _ =>
    let k := l.key (s.siteOf s.cur)
    if (l.xl.map (·.nl1)).getD true then
      if s.memBad k l.n then fail .ue
      else do
        let (s, bs) := s.homeRead k l.n
        set s
        pure bs
    else do
      let (s, bs, bad) := s.l1Read s.cur k l.n
      if bad then fail .ue else do
        set s
        pure bs

/-- L1 lines that elements lie in, for a requester at a site (R247). -/
def l1Keys (site : Nat) (ls : List Lane) : NSet :=
  ls.foldl (fun acc l => match l.xl, l.place with
    | some x, .foot k => if x.nl1 || k == .inout then acc else NSet.insert (l.key site / 32) acc
    | some x, .const => if x.nl1 then acc else NSet.insert (l.key site / 32) acc
    | _, _ => acc) []

/-- The bytes of several elements; each line's residency count falls once (R247). -/
def loadLanes (ls : List Lane) : M (List (List Byte)) := do
  let bs ← ls.mapM loadLane
  modState (fun s => s.l1Touch s.cur (l1Keys (s.siteOf s.cur) ls))
  pure bs

/-- The page of a home key is about to be written by the running task. -/
def notePage (k : Nat) : M Unit := do
  let r ← runM
  modState (fun s => if r.border then s else s.notePage r.job r.gid k)

/-- The control block is about to be written by the running task. -/
def noteJcb : M Unit := do
  let r ← runM
  modState (fun s => if r.border then s else s.noteJcb r.job r.gid)

/-- The bytes of an element stored at its place (R244, R265, R298). -/
def storeLane (l : Lane) (bs : List Byte) : M Unit := do
  chanWait l.va l.n
  readWait l.va l.n
  let s ← get
  let r ← runM
  match l.place with
  | .window o => modTile (fun t => t.storeSp o bs)
  | .jcb o => do
    noteJcb
    modState (fun s => match s.job? r.job with
      | some j => (s.homeWrite [] (j.jcbpa + o) bs).tookQ r.job o bs.length
      | none => s)
  | .foot .priv => do
    let k := l.key (s.siteOf s.cur)
    notePage k
    if (l.xl.map (·.nl1)).getD true then modState (fun s => s.homeWrite (s.sitesOfTile s.cur) k bs)
    else modState (fun s => s.l1Write s.cur k bs)
  | _ =>
    match l.xl with
    | some x =>
      let (slice, set) := s.stagePlace r.job x l.va
      stageM (.store (s.stageKey r.job x l.va / 32 * 32) (maskOf (l.va % 32) l.n) (lineWith 0 (l.va % 32) bs))
        (l.va / 32 * 32) slice set [x]
    | none => illegal

/-- A store writes its bytes where they lie, and not through the staging. -/
def Place.direct : Place → Bool
  | .window _ | .jcb _ | .foot .priv => true
  | _ => false

/-- The 8-byte units that elements of fewer bytes of one instruction fill together, each as an element with the bytes last stored in it. The
instruction is one write of them (R260). -/
def wholeUnits (xs : List (Lane × List Byte)) : List (Lane × List Byte) :=
  let byte (a : Nat) : Option Byte := (xs.findRev? (fun x => decide (x.1.va ≤ a) && decide (a < x.1.va + x.1.n))).map
    (fun x => x.2.getD (a - x.1.va) 0)
  (xs.filter (fun x => decide (x.1.va % 8 = 0) && decide (x.1.n < 8) && x.1.place.direct)).filterMap (fun x =>
    ((List.range 8).mapM (fun i => byte (x.1.va + i))).map (fun bs => ({ x.1 with n := 8 }, bs)))

/-- Elements stored in order; the units they fill together are then written whole, which makes them good (R260, R265). -/
def storeLanes (xs : List (Lane × List Byte)) : M Unit := do
  xs.forM (fun x => storeLane x.1 x.2)
  (wholeUnits xs).forM (fun x => storeLane x.1 x.2)

/-! Ordering (R245, R266, R294). -/

def acquireM (sc : Scope) : M Unit := modState (fun s => s.acquire s.cur sc)
def releaseM (sc : Scope) : M Unit := modState (fun s => s.release s.cur sc)

/-- The release half of an order. -/
def releasePart : Order → M Unit
  | .rel sc | .acqRel sc => releaseM sc
  | _ => pure ()

/-- The acquire half of an order. -/
def acquirePart : Order → M Unit
  | .acq sc | .acqRel sc => acquireM sc
  | _ => pure ()

/-- The element bytes of a value, and a value of bytes. -/
def elemBytes (ty : Ty) (v : Nat) : List Byte := leBytes (ty.bits / 8) v

/-! The border context (R74). -/

/-- launch, gdone, tcommit and thead raise ILLEGAL_INSTRUCTION there. -/
def noBorder : M Unit := do if (← runM).border then illegal else pure ()

end Sys2Proof.Machine
end

