-- ==== Sys2Proof/Machine/Streams.lean ====
section
/-! DEFINITION. Streams.lean: vector registers bound to stream generators (R141, R142), and the shell of an instruction whose
lanes are enabled one by one (R95, R133). -/
namespace Sys2Proof.Machine

/-- Generator k is bound; its direction is write (R141). -/
def Tile.sgBound (t : Tile) (k : Nat) : Bool := (t.ctl (cSBCFG k)).getLsbD 60
def Tile.sgWrite (t : Tile) (k : Nat) : Bool := (t.ctl (cSBCFG k)).getLsbD 61
def Tile.sgNext (t : Tile) (k : Nat) : Nat := (t.ctl (cSBCFG k)).toNat % 2 ^ 60

/-- NEXT, DIR and BOUND as SBCFG holds them. -/
def sbcfg (next : Nat) (write bound : Bool) : Word :=
  word (next % 2 ^ 60 + (if bound then 2 ^ 60 else 0) + (if write then 2 ^ 61 else 0))

/-- NEXT, SGCNT and BOUND after one element (R142). NEXT keeps 60 bits (log 25). DESIGN CHOICE (log 131): a count of 0 with BOUND set,
which a frame's words can bring, wraps. -/
def Tile.sgStep (t : Tile) (k : Nat) : Tile :=
  let c := t.ctl (cSGCNT k) - 1
  let t' := t.setCtl (cSBCFG k) (sbcfg (word (t.sgNext k) + t.ctl (cSGSTR k)).toNat (t.sgWrite k) (decide (c ≠ 0)))
  t'.setCtl (cSGCNT k) c

/-- The register of generator k. -/
def sgReg (k : Fin 4) : VReg := ⟨28 + k.val, by omega⟩

/-- Mem[NEXT, 128] as four units. -/
def elemUnits (a : Nat) : List (Nat × Nat) := [(a, 32), (a + 32, 32), (a + 64, 32), (a + 96, 32)]

/-- The state of generator k read as registers are (R139, R146). -/
def sgBytes (k : Nat) : M Unit := do
  let t ← tileM
  regBytes (t.base + cSBCFG k) 8
  regBytes (t.base + cSGSTR k) 8
  regBytes (t.base + cSGCNT k) 8

/-- One element popped into its register (R142). -/
def popStream (k : Fin 4) : M Unit := do
  sgBytes k
  let t ← tileM
  let ls ← checkLanes .load (elemUnits (t.sgNext k))
  let bs ← loadLanes ls
  wrV (sgReg k) (BitVec.ofNat 1024 (leVal bs.flatten))
  modTile (fun t => t.sgStep k)

/-- The register appended (R142). -/
def appendStream (k : Fin 4) : M Unit := do
  sgBytes k
  let v ← rdV (sgReg k)
  let t ← tileM
  let ls ← checkLanes .store (elemUnits (t.sgNext k))
  (ls.zipIdx).forM (fun e => storeLane e.1 (leBytes 32 (v.toNat / 2 ^ (256 * e.2))))
  modTile (fun t => t.sgStep k)

/-- Pops before an instruction that reads `reads` and writes `dest`; the illegal uses of R142. DESIGN CHOICE (log 101): the rule
gives no order among the pops of one instruction, nor between a pop and its own address checks; sg0 to sg3 are popped in that
order, before the instruction's other checks. Whether a register that the instruction names is bound is read of SBCFG, whose poison is
then consumed (R146). -/
def streamBefore (reads : List VReg) (dest : Option VReg) (k : Fin 4) : M Unit := do
  if !(reads.contains (sgReg k) || dest == some (sgReg k)) then pure ()
  else do
    let t ← tileM
    regBytes (t.base + cSBCFG k) 8
    if t.sgBound k then
      if t.sgWrite k then
        (if reads.contains (sgReg k) && dest != some (sgReg k) then illegal else pure ())
      else if dest == some (sgReg k) then illegal
      else popStream k
    else pure ()

/-- The append after an instruction that writes a register bound for writing. -/
def streamAfter (dest : Option VReg) (k : Fin 4) : M Unit := do
  let t ← tileM
  if t.sgBound k && t.sgWrite k && dest == some (sgReg k) then appendStream k else pure ()

def streamsBefore (reads : List VReg) (dest : Option VReg) : M Unit := do
  streamBefore reads dest 0
  streamBefore reads dest 1
  streamBefore reads dest 2
  streamBefore reads dest 3

def streamsAfter (dest : Option VReg) : M Unit := do
  streamAfter dest 0
  streamAfter dest 1
  streamAfter dest 2
  streamAfter dest 3

/-- An instruction of some lanes: with none enabled nothing happens (R95, R142), else pops, its effect under the predicate word,
appends. -/
def lanedOn (p : Pred) (ls : List Nat) (reads : List VReg) (dest : Option VReg) (body : FWord → M Unit) : M Flow := do
  let w ← rdPred p
  if ls.any (fun j => w.getLsbD j) then do
    streamsBefore reads dest
    body w
    streamsAfter dest
    pure .next
  else pure .next

/-- The same of lanes 0 to n − 1. -/
def laned (p : Pred) (n : Nat) (reads : List VReg) (dest : Option VReg) (body : FWord → M Unit) : M Flow :=
  lanedOn p (List.range n) reads dest body

/-- Elements of s bits: those of enabled lanes new, the others old (R95, R133). -/
def vMerge (s : Nat) (w : FWord) (old : VWord) (new : Nat → Nat) : VWord :=
  BitVec.ofNat 1024 (vOfElems s ((List.range (1024 / s)).map (fun j =>
    if w.getLsbD (laneOf s j) then new j else vElem s old j)))

/-- The enabled lanes of n. -/
def onLanes (w : FWord) (n : Nat) : List Nat := (List.range n).filter (fun j => w.getLsbD j)

end Sys2Proof.Machine
end

