-- ==== Sys2Proof/Machine/MemAccess.lean ====
section
/-! DEFINITION. MemAccess.lean: groups 0x20 to 0x27 and ifence (R261 to R272). -/
namespace Sys2Proof.Machine

/-- Bytes of an element of a type. -/
def Ty.bytes (ty : Ty) : Nat := ty.bits / 8

/-- EA := (w(A) + OpB) mod 2^64 (R261). -/
def effAddr (a : WReg) (b : OpB) : M Word := do
  let x ← rdW a
  let y ← rdB b
  pure (x + y)

/-- An address that is not a multiple of the element's size (R262). -/
def alignCheck (ty : Ty) (v : Word) : M Unit :=
  if v.toNat % Ty.bytes ty ≠ 0 then trap 0x08 v else pure ()

/-- The checked element of a scalar load (R261, R262). -/
def loadScalar (k : Kind) (ty : Ty) (a : WReg) (b : OpB) : M (List Lane) := do
  let ea ← effAddr a b
  alignCheck ty ea
  checkLanes k [(ea.toNat, Ty.bytes ty)]

/-- Elements of a vector access: lane and address (R261). -/
abbrev Elems := List (Nat × Word)

/-- The first misaligned enabled element (R262). -/
def alignElems (ty : Ty) (es : Elems) : M Unit :=
  match es.find? (fun e => decide (e.2.toNat % Ty.bytes ty ≠ 0)) with
  | some e => trap 0x08 e.2
  | none => pure ()

/-- Elements loaded into v(D) (R264). -/
def loadElems (ty : Ty) (w : FWord) (d : VReg) (es : Elems) : M Unit := do
  let ls ← checkLanes .load (es.map (fun e => (e.2.toNat, Ty.bytes ty)))
  let bs ← loadLanes ls
  let vals := (es.map (·.1)).zip (bs.map leVal)
  modTile (fun t => t.setElems d ty.bits (fun j => w.getLsbD j && decide (j < 1024 / ty.bits))
    (vMerge ty.bits w (t.v d) (fun j => AMap.getD vals j 0)))

/-- Elements of v(C) stored in lane order (R263, R264, R265). -/
def storeElems (ty : Ty) (c : VReg) (es : Elems) : M Unit := do
  let v ← rdV c
  let ls ← checkLanes .store (es.map (fun e => (e.2.toNat, Ty.bytes ty)))
  storeLanes (ls.zip (es.map (fun e => elemBytes ty (vElem ty.bits v e.1))))

/-- Addresses base + j × stride. -/
def strideElems (w : FWord) (n : Nat) (base stride : Word) : Elems := (onLanes w n).map (fun j => (j, base + word j * stride))

/-- Addresses base + Idx(j) × size (R261). -/
def indexElems (ty : Ty) (w : FWord) (base : Word) (ix : VWord) : Elems :=
  (onLanes w (1024 / ty.bits)).map (fun j =>
    (j, base + BitVec.ofInt 64 (intOf ty.signed ty.bits (vElem ty.bits ix j)) * word (Ty.bytes ty)))

def execLd (p : Pred) (ty : Ty) (o : Order) (d a : WReg) (b : OpB) : State → Host.Outcome State Fault Refusal :=
  perform (whole p do
    let ls ← loadScalar .load ty a b
    acquirePart o
    let bs ← loadLanes ls
    wrW d (putInt ty (leVal bs.flatten))
    pure .next)

def execSt (p : Pred) (ty : Ty) (o : Order) (a : WReg) (b : OpB) (c : WReg) : State → Host.Outcome State Fault Refusal :=
  perform (whole p do
    let ea ← effAddr a b
    let v ← rdW c
    alignCheck ty ea
    let ls ← checkLanes .store [(ea.toNat, Ty.bytes ty)]
    releasePart o
    ls.forM (fun l => storeLane l (elemBytes ty v.toNat))
    pure .next)

def execVld (p : Pred) (ty : Ty) (o : Order) (d : VReg) (a : WReg) (b : OpB) : State → Host.Outcome State Fault Refusal :=
  perform (laned p (1024 / ty.bits) [] (some d) (fun w => do
    let ea ← effAddr a b
    alignCheck ty ea
    let es := strideElems w (1024 / ty.bits) ea (word (Ty.bytes ty))
    acquirePart o
    loadElems ty w d es))

def execVst (p : Pred) (ty : Ty) (o : Order) (a : WReg) (b : OpB) (c : VReg) : State → Host.Outcome State Fault Refusal :=
  perform (laned p (1024 / ty.bits) [c] none (fun w => do
    let ea ← effAddr a b
    alignCheck ty ea
    let es := strideElems w (1024 / ty.bits) ea (word (Ty.bytes ty))
    releasePart o
    storeElems ty c es))

def execVlds (p : Pred) (ty : Ty) (d : VReg) (a : WReg) (b : OpB) : State → Host.Outcome State Fault Refusal :=
  perform (laned p (1024 / ty.bits) [] (some d) (fun w => do
    let base ← rdW a
    let stride ← rdB b
    let es := strideElems w (1024 / ty.bits) base stride
    alignElems ty es
    alignCheck ty stride
    loadElems ty w d es))

def execVsts (p : Pred) (ty : Ty) (a : WReg) (b : OpB) (c : VReg) : State → Host.Outcome State Fault Refusal :=
  perform (laned p (1024 / ty.bits) [c] none (fun w => do
    let base ← rdW a
    let stride ← rdB b
    let es := strideElems w (1024 / ty.bits) base stride
    alignElems ty es
    alignCheck ty stride
    storeElems ty c es))

def execVldg (p : Pred) (ty : Ty) (d : VReg) (a : WReg) (b : VReg) : State → Host.Outcome State Fault Refusal :=
  perform (laned p (1024 / ty.bits) [b] (some d) (fun w => do
    let base ← rdW a
    let ix ← rdV b
    let es := indexElems ty w base ix
    alignElems ty es
    loadElems ty w d es))

def execVstx (p : Pred) (ty : Ty) (a : WReg) (b c : VReg) : State → Host.Outcome State Fault Refusal :=
  perform (laned p (1024 / ty.bits) [b, c] none (fun w => do
    let base ← rdW a
    let ix ← rdV b
    let es := indexElems ty w base ix
    alignElems ty es
    storeElems ty c es))

/-- ld, then the lines it read carry the count (R267). -/
def execLdrc (p : Pred) (ty : Ty) (count : BitVec 4) (d a : WReg) (b : OpB) : State → Host.Outcome State Fault Refusal :=
  perform (whole p do
    let ls ← loadScalar .load ty a b
    let bs ← ls.mapM loadLane
    modState (fun s => s.l1Resid s.cur (l1Keys (s.siteOf s.cur) ls) count.toNat)
    wrW d (putInt ty (leVal bs.flatten))
    pure .next)

/-! ldc (R248, R268). -/

/-- A line enters the constant cache of 256 sets of 4 ways (log 20). DESIGN CHOICE (log 124): its set is the physical line number modulo
256. -/
def State.keepConst (s : State) (tile : Nat) (x : CLine) : State :=
  let t := s.tile tile
  let others := t.ccache.filter (fun y => decide (y.key ≠ x.key))
  let inSet (y : CLine) : Bool := y.key % 256 == x.key % 256
  { s with draws := if placeFull 4 inSet others then s.draws + 1 else s.draws }.setTile tile { t with
    ccache := x :: makeRoom 4 (Config.cacheVictim s.draws) inSet others }

/-- Some unit of [i, i + n) of a line is poisoned. -/
def CLine.bad (x : CLine) (i n : Nat) : Bool :=
  (List.range 8).any (fun u => x.poison.getLsbD u && decide (8 * u < i + n) && decide (i < 8 * u + 8))

/-- A line of constants brought in: the bytes as they stood when the tile's constant cache was last emptied, since a store made later is
seen only after the next such event (R248, R268); the poison of its units with it. -/
def State.constLine (s : State) (tile key : Nat) : CLine :=
  { key := key, data := BitVec.ofNat 512 (leVal ((s.coldMem tile).readBytes (key * 64) 64)),
    poison := BitVec.ofNat 8 (((List.range 8).filter (fun u =>
      s.memBad (key * 64 + 8 * u) 8)).foldl (fun acc u => acc + 2 ^ u) 0) }

/-- Bytes of a constant through the constant cache; poisoned ones are consumed (R260). -/
def constLane (l : Lane) : M (List Byte) := do
  let s ← get
  let t ← tileM
  let k := l.key (s.siteOf s.cur)
  let pick (x : CLine) : M (List Byte) :=
    if x.bad (k % 64) l.n then fail .ue else pure (leBytes l.n (x.data.toNat / 2 ^ (8 * (k % 64))))
  match findCLine (k / 64) t.ccache with
  | some x => pick x
  | none => do
    let x := s.constLine s.cur (k / 64)
    modState (fun s => s.keepConst s.cur x)
    pick x

def execLdc (p : Pred) (ty : Ty) (d a : WReg) (b : OpB) : State → Host.Outcome State Fault Refusal :=
  perform (whole p do
    let ls ← loadScalar .konst ty a b
    let bs ← ls.mapM constLane
    wrW d (putInt ty (leVal bs.flatten))
    pure .next)

/-! Stream binding (R269). -/

def execSbind (p : Pred) (write : Bool) (d : VReg) (a b c : WReg) : State → Host.Outcome State Fault Refusal :=
  perform (whole p do
    let base ← rdW a
    let stride ← rdW b
    let count ← rdW c
    if d.val < 28 then illegal
    else if base.toNat % 128 ≠ 0 then trap 0x08 base
    else if stride.toNat % 128 ≠ 0 then trap 0x08 stride
    else if count = 0 || 2 ^ 60 ≤ base.toNat then illegal
    else do
      let k := d.val - 28
      modTile (fun t => ((t.setCtl (cSBCFG k) (sbcfg base.toNat write true)).setCtl (cSGSTR k) stride).setCtl (cSGCNT k) count)
      pure .next)

/-- sunbind: one bit of SBCFG changes, so that a poisoned one stays poisoned (R146, R269). -/
def execSunbind (p : Pred) (d : VReg) : State → Host.Outcome State Fault Refusal :=
  perform (whole p do
    if d.val < 28 then illegal
    else do
      let k := d.val - 28
      modTile (fun t => t.bumpCtl (cSBCFG k) (sbcfg (t.sgNext k) (t.sgWrite k) false))
      pure .next)

/-! Cache maintenance (R270, R271). -/

/-- Where what a range's bytes are may change: the edges of footprint entries, constant regions and the windows. -/
def edges (foot : List Foot) (consts : List Region) : List Nat :=
  foot.flatMap (fun f => [f.base, f.base + f.len]) ++ consts.flatMap (fun r => [r.base, r.base + r.len])
    ++ [Config.spBase, Config.spEnd, Config.jcbBase, 2 ^ 60]

/-- The lowest byte of [a, a + n) that fails checks 1 to 3 as one of the kinds, windows passing (R270). -/
def rangeFault (ks : List Kind) (foot : List Foot) (consts : List Region) (a n : Nat) : Option (Nat × Nat) :=
  let cands := (a :: edges foot consts).filter (fun x => decide (a ≤ x) && decide (x < a + n))
  lowestFault (cands.flatMap (fun x => ks.filterMap (fun k =>
    match placeOf foot consts x with
    | .window _ | .jcb _ => none
    | pl => (placeFault k (2 ^ 64) {} pl).map (fun c => (x, c)))))

/-- Pieces of [a, a + n) in the regions a task may reach, windows left out: address and length. -/
def walkedPieces (foot : List Foot) (consts : List Region) (a n : Nat) : List (Nat × Nat) :=
  (foot.map (fun f => (f.base, f.len)) ++ consts.map (fun r => (r.base, r.len))).flatMap (fun e =>
    let lo := max a e.1
    let hi := min (a + n) (e.1 + e.2)
    if lo < hi then pieces lo (hi - lo) else [])

/-- One line of L1 under an operation at a level (R270). -/
def maintLine (s : State) (tile : Nat) (op : CmOp) (level : CmLevel) (l : L1Line) : State :=
  match op, level with
  | .clean, _ => s.cleanLine tile l false
  | .inval, .l1 => let t := s.tile tile; s.setTile tile { t with l1 := dropLine l.key t.l1 }
  | _, _ => s.cleanLine tile l true

/-- The lines and slots of a tile that hold a byte of some physical pieces. -/
def State.maintain (s : State) (tile : Nat) (op : CmOp) (level : CmLevel) (ps : List (Nat × Nat)) : State :=
  let hit (a n : Nat) : Bool := ps.any (fun p => decide (p.1 < a + n) && decide (a < p.1 + p.2))
  let t := s.tile tile
  let (out, stay) := t.slots.partition (fun c => hit (c.addr / 32 * 32) 32)
  let s := { s with pend := s.pend ++ out }.setTile tile { t with slots := stay }
  (t.l1.filter (fun l => hit (32 * l.key) 32)).foldl (fun s l => maintLine s tile op level l) s

def execCmaint (p : Pred) (op : CmOp) (level : CmLevel) (a : WReg) (b : OpB) : State → Host.Outcome State Fault Refusal :=
  perform (whole p do
    let base ← rdW a
    let len ← rdB b
    let r ← runM
    let s ← get
    let foot := s.footOf r
    let consts := s.constsOf r
    let ks : List Kind := if op = .inval && level = .l1 then [.load, .store] else [.load]
    if len = 0 then pure .next
    else match rangeFault ks foot consts base.toNat len.toNat with
      | some (x, c) => trap c (word x)
      | none => do
        let ls := (walkedPieces foot consts base.toNat len.toNat).map (fun q => (⟨q.1, q.2, .const, none⟩ : Lane))
        let (s, ls, _, f) := xlateLanes s.cur r.job .load s ls
        match f with
        | some e => fail (.xlate e)
        | none => do
          set (s.maintain s.cur op level (ls.map (fun l => (l.key (s.siteOf s.cur), l.n))))
          pure .next)

/-- Physical lines of the code regions in [a, a + n) that translate: key and length. -/
def State.codePieces (s : State) (tile : Nat) (r : Run) (a n : Nat) : List (Nat × Nat) :=
  (s.codeOf r).flatMap (fun c =>
    let lo := max a (c.base / 65536 * 65536)
    let hi := min (a + n) ((c.base + c.len + 65535) / 65536 * 65536)
    if lo < hi then
      (pieces lo (hi - lo)).filterMap (fun q => match s.translate tile r.job q.1 accLoad .read with
        | .ok x => some (x.key (s.siteOf tile) q.1, q.2)
        | .error _ => none)
    else [])

def execIcinv (p : Pred) (a : WReg) (b : OpB) : State → Host.Outcome State Fault Refusal :=
  perform (whole p do
    let base ← rdW a
    let len ← rdB b
    let r ← runM
    let s ← get
    let ps := s.codePieces s.cur r base.toNat len.toNat
    modTile (fun t => t.dropCode (fun k => ps.any (fun q => decide (q.1 < 64 * k + 64) && decide (64 * k < q.1 + q.2))))
    pure .next)

def execIfence (p : Pred) : State → Host.Outcome State Fault Refusal :=
  perform (whole p (andNext (modTile (fun t => { t with fbuf := [] }))))

def execFence (p : Pred) (o : Order) : State → Host.Outcome State Fault Refusal :=
  perform (whole p do
    releasePart o
    acquirePart o
    pure .next)

end Sys2Proof.Machine
end

