-- ==== Sys2Proof/Machine/Atomics.lean ====
section
/-! DEFINITION. Atomics.lean: amo, amof and red (R307 to R314, R54). -/
namespace Sys2Proof.Machine

/-- A superstep that updates memory outside the window and outside OUT and INOUT cannot be restored (R332). -/
def noRestore : M Unit := modGang (fun g => { g with norestore := true })

/-- The L1 unit of a key cleaned and dropped (R308, R313). -/
def dropUnit (key : Nat) : M Unit := modState (fun s =>
  match findLine (key / 32) (s.tile s.cur).l1 with
  | some l => s.cleanLine s.cur l true
  | none => s)

/-- One atomic at a home: the old pattern. -/
def homeAtomic (k n : Nat) (f : Nat → Option Nat) : M Nat := do
  let s ← get
  if s.memBad k n then fail .ue
  else do
    let (s, bs) := s.homeRead k n
    set (match f (leVal bs) with
      | some x => s.homeWrite (s.sitesOfTile s.cur) k (leBytes n x)
      | none => s)
    pure (leVal bs)

/-- An atomic performed at its place (R308, R310): the old pattern, the gang view where it is staged. -/
def atomicLane (l : Lane) (op : AmoOp) (ty : Ty) (v c : Nat) (returns : Bool) : M Nat := do
  let n := Ty.bytes ty
  chanWait l.va n
  readWait l.va n
  let s ← get
  let r ← runM
  let f (old : Nat) : Option Nat := atomNew op ty old v c
  match l.place with
  | .window o => do
    let t ← tileM
    if t.spBad o n then fail .ue
    else do
      let old := t.sp.readLE o n
      modTile (fun t => match f old with
        | some x => t.storeSp o (leBytes n x)
        | none => t)
      pure old
  | .jcb o => do
    noRestore
    noteJcb
    let old ← homeAtomic ((match s.job? r.job with | some j => j.jcbpa | none => 0) + o) n f
    modState (fun s => s.tookQ r.job o n)
    pure old
  | .foot .priv => do
    noRestore
    notePage (l.key (s.siteOf s.cur))
    dropUnit (l.key (s.siteOf s.cur))
    homeAtomic (l.key (s.siteOf s.cur)) n f
  | _ =>
    match l.xl with
    | none => illegal
    | some x => do
      let old ← if returns then loadLane l else pure []
      let place := s.stagePlace r.job x l.va
      stageM (.atomic (s.stageKey r.job x l.va) op ty v c) l.va place.1 place.2 [x]
      pure (leVal old)

/-- The checked address of an atomic (R308). -/
def atomicAddr (k : Kind) (ty : Ty) (a : WReg) : M (List Lane) := do
  let ea ← rdW a
  alignCheck ty ea
  checkLanes k [(ea.toNat, Ty.bytes ty)]

def execAmo (p : Pred) (op : AmoOp) (ty : Ty) (o : Order) (a c : WReg) : State → Host.Outcome State Fault Refusal :=
  perform (whole p do
    let v ← rdW c
    let ls ← atomicAddr .update ty a
    releasePart o
    ls.forM (fun l => do
      let _ ← atomicLane l op ty (v.toNat % 2 ^ ty.bits) 0 false)
    pure .next)

/-- The value of a returning atomic logged on pass 1 of a measurement, compared on a later one (R354, R355). -/
def measAtomic (g : Gang) (x : TaskInfo) (old : Nat) : Gang :=
  match g.meas with
  | none => g
  | some m =>
    let m' : Meas :=
      if m.pass = 1 then (if 65536 ≤ m.log.length then { m with logfull := true } else { m with log := m.log ++ [(x.key, x.natom, old)] })
      else match m.log.find? (fun e => e.1 == x.key && decide (e.2.1 = x.natom)) with
        | some e => { m with mismatch := m.mismatch || decide (e.2.2 ≠ old) }
        | none => m
    { g with meas := some m' }.mapTask x.addr (fun y => { y with natom := y.natom + 1 })

/-- amof's register and acquire half (R310). -/
def atomicReturn (ty : Ty) (o : Order) (d : WReg) (old : Nat) : M Flow := do
  let r ← runM
  modGang (fun g => match g.task? r.taskAddr with
    | some x => measAtomic g x old
    | none => g)
  acquirePart o
  wrW d (if ty.isInt then putInt ty (old : Int) else word old)
  pure .next

/-- The offset in the workspace of an address in the scratchpad window. -/
def Tile.wsOffset (t : Tile) (va : Nat) : Option Nat :=
  if inWindow va && decide (t.base ≤ va - Config.spBase) && decide (va - Config.spBase < t.base + 0x1580) then
    some (va - Config.spBase - t.base)
  else none

/-- amof. Under DSM it is issued, ends the task's part of the quantum, and is served at the close (R53, R54, R308). -/
def execAmof (p : Pred) (op : AmoOp) (ty : Ty) (o : Order) (d a b c : WReg) : State → Host.Outcome State Fault Refusal :=
  perform (do
    let r ← runM
    let g ← gangM
    let info := g.bind (·.task? r.taskAddr)
    match info.bind (·.got) with
    | some old => do
      modTask (fun x => { x with got := none, amof := none })
      atomicReturn ty o d old
    | none => whole p do
      let v ← rdW c
      let cmp ← if op = .cas then rdW b else pure 0
      let ls ← atomicAddr .returning ty a
      if g.any (·.desc.dsm) then do
        (if info.any (fun x => x.amo.isSome) then pure () else do
          releasePart o
          let n := (← get).cur
          let t ← tileM
          let va := (ls.headD ⟨0, 0, .gap, none⟩).va
          modTask (fun x => { x with ended := true, amof := some (.amof p op ty o d a b c), amo := some ⟨op, ty, va, v.toNat % 2 ^ ty.bits, cmp.toNat % 2 ^ ty.bits, n,
            t.wsOffset va, false⟩ }))
        failKeep (.stall .atomic)
      else do
        releasePart o
        let olds ← ls.mapM (fun l => atomicLane l op ty (v.toNat % 2 ^ ty.bits) (cmp.toNat % 2 ^ ty.bits) true)
        atomicReturn ty o d (olds.headD 0))

/-! Reductions (R311 to R314). -/

/-- The next place in the program order of the task's contributions and staged entries. -/
def nextOrd : M Nat := do
  let r ← runM
  let s ← get
  match s.runGang r with
  | some g => do
    modGang (fun g => { g with ord := g.ord + 1 })
    pure g.ord
  | none =>
    match s.job? r.job with
    | some j => do
      modState (fun s => s.setJob r.job { j with border := j.border + 1 })
      pure j.border
    | none => pure 0

/-- A contribution enters its task's slot: the line takes a way in update-only state; the slot of another task of the line is
sent first, a full one after (R313). -/
def State.contribute (s : State) (tile : Nat) (x : Contrib) (nl1 : Bool) : State :=
  if nl1 then { s with pend := s.pend ++ [x] }
  else
    let s := s.sendSome tile (fun y => decide (y.addr / 32 = x.addr / 32) &&
      decide ((y.job, y.gang, y.key) ≠ (x.job, x.gang, x.key)))
    let s := if (s.tile tile).slots.any (fun y => decide (y.addr / 32 = x.addr / 32)) then s else s.l1Room tile (x.addr / 32)
    let t := s.tile tile
    let s := s.setTile tile { t with slots := t.slots ++ [x] }
    let mine (y : Contrib) : Bool := decide (y.addr = x.addr)
    if 8 ≤ ((s.tile tile).slots.filter mine).length then s.sendSome tile mine else s

/-- One reduction at its place (R313). -/
def redLane (l : Lane) (op : RedOp) (ty : Ty) (m : Rnd) (v : Nat) : M Unit := do
  let n := Ty.bytes ty
  chanWait l.va n
  readWait l.va n
  let s ← get
  let r ← runM
  match l.place with
  | .window o => do
    let t ← tileM
    if t.spBad o n then fail .ue
    else modTile (fun t => t.storeSp o (leBytes n (redStep op ty m (t.sp.readLE o n) v)))
  | .jcb o => do
    let k := (match s.job? r.job with | some j => j.jcbpa | none => 0) + o
    noRestore
    noteJcb
    let ord ← nextOrd
    modState (fun s => (s.contribute s.cur ⟨r.job, r.gid, r.rcd.key, ord, k, op, ty, m, v⟩ false).tookQ r.job o n)
  | .foot .priv => do
    noRestore
    notePage (l.key (s.siteOf s.cur))
    dropUnit (l.key (s.siteOf s.cur))
    let ord ← nextOrd
    modState (fun s => s.contribute s.cur ⟨r.job, r.gid, r.rcd.key, ord, l.key (s.siteOf s.cur), op, ty, m, v⟩
      ((l.xl.map (·.nl1)).getD true))
  | _ =>
    match l.xl with
    | none => illegal
    | some x =>
      let place := s.stagePlace r.job x l.va
      stageM (.red (s.stageKey r.job x l.va) op ty m v) l.va place.1 place.2 [x]

/-- Reductions of elements at addresses, in lane order. -/
def redElems (op : RedOp) (ty : Ty) (m : Rnd) (es : List (Nat × Nat)) : M Unit := do
  let ls ← checkLanes .update (es.map (fun e => (e.1, Ty.bytes ty)))
  (ls.zip es).forM (fun e => redLane e.1 op ty m e.2.2)

def execRed (p : Pred) (op : RedOp) (ty : Ty) (m : Rnd) (a : WReg) (src : RedSrc) : State → Host.Outcome State Fault Refusal :=
  match src with
  | .w c => perform (whole p do
      let ea ← rdW a
      let v ← rdW c
      alignCheck ty ea
      redElems op ty m [(ea.toNat, v.toNat % 2 ^ ty.bits)]
      pure .next)
  | .v c => perform (laned p (1024 / ty.bits) [c] none (fun w => do
      let ea ← rdW a
      let v ← rdV c
      if ea.toNat % 128 ≠ 0 then trap 0x08 ea
      else redElems op ty m ((onLanes w (1024 / ty.bits)).map (fun j => (ea.toNat + j * Ty.bytes ty, vElem ty.bits v j)))))

/-! Returning atomics served at the close of a quantum (R54). -/

/-- An effect carried out as if a task ran on a tile. -/
def asTask {α : Type} (s : State) (n : Nat) (r : Run) (m : M α) : Except Why (α × State) :=
  let keep := (s.tile n).run
  let cur := s.cur
  match m { s.setTile n { s.tile n with run := some r } with cur := n } with
  | .error e => .error e.why
  | .ok (a, s') => .ok (a, { s'.setTile n { s'.tile n with run := keep } with cur := cur })

/-- The record a task of a gang would run with. -/
def TaskInfo.asRecord (x : TaskInfo) (gid : Nat) : Record :=
  { cp := 0, fp := word (x.addr - Config.recOff), lin := x.key.lin, gang := BitVec.ofNat 32 gid,
    flags := mkFlags x.key.depth 0 1 false false }

/-- How serving one returning atomic ends. -/
inductive Served where
  | ok (s : State)
  | full (s : State)
  | failed (s : State)

/-- An atomic on bytes of the workspace of a task that is on no tile: in its frame. -/
def State.frameAmo (s : State) (jid gid addr k : Nat) (a : PendAmo) : Except XFault (Nat × State) := do
  let n := Ty.bytes a.ty
  let va := addr - Config.recOff + k
  let (s, bs) ← s.devRead jid (s.jobSite jid) va n accLoad
  match atomNew a.op a.ty (leVal bs) a.val a.cmp with
  | some x => do
    let s ← s.taskWrite jid (s.jobSite jid) { cp := 0, fp := 0, lin := 0, gang := BitVec.ofNat 32 gid, flags := 0 } va (leBytes n x)
    pure (leVal bs, s)
  | none => pure (leVal bs, s)

/-- The served atomic's old value kept for its task. -/
def State.gotAmo (s : State) (jid gid addr old : Nat) : State :=
  s.mapTask jid gid addr (fun y => { y with amo := none, got := some old })

/-- Bytes of the scratchpad of a task that has left its tile (log 107): those of the saved scratchpad of a pre-empted root, else of
the tile the atomic was issued on; the tile no longer the job's, the old value is free and nothing is stored. None when the bytes are poisoned (R146). -/
def State.awayAmo (s : State) (jid gid : Nat) (x : TaskInfo) (a : PendAmo) : Option State :=
  let n := Ty.bytes a.ty
  let o := a.va - Config.spBase
  let put (m : Memory) : Memory := match atomNew a.op a.ty (m.readLE o n) a.val a.cmp with
    | some y => m.writeLE o n y
    | none => m
  match (s.gang? jid gid).bind (fun g => g.saves.find? (fun y => decide (y.addr = x.addr))) with
  | some y =>
    if y.poison.any (fun u => decide (8 * u < o + n) && decide (o < 8 * u + 8)) then none
    else some <| (match s.gang? jid gid with
    | some g => (s.setGang jid gid { g with saves := g.saves.map (fun (z : RootSave) => if z.addr = x.addr then { z with sp := put z.sp } else z) })
    | none => s).gotAmo jid gid x.addr (y.sp.readLE o n)
  | none =>
    let t := s.tile a.tile
    if t.owner != Owner.job jid then
      some ({ s with draws := s.draws + 1 }.gotAmo jid gid x.addr ((Config.lostWord s.draws).toNat % 2 ^ a.ty.bits))
    else if t.spBad o n then none
    else some ((s.setTile a.tile (match atomNew a.op a.ty (t.sp.readLE o n) a.val a.cmp with
      | some y => t.storeSp o (leBytes n y)
      | none => t)).gotAmo jid gid x.addr (t.sp.readLE o n))

/-- One returning atomic served (R54): on the tile where its task stands, or, for a task on no tile, at the home or, an atomic of
the scratchpad, where `frameAmo` and `awayAmo` say. One that meets a channel or full staging waits, and the close with it, full
staging until its gang is head (R299); one whose page no longer translates, or whose place is no longer allowed, is issued again by its task, which faults there as at any access: the
close waits for it (log 107). -/
def State.serveAmo (s : State) (jid gid : Nat) (x : TaskInfo) (a : PendAmo) : Served :=
  let host := (s.tiles.find? (fun (e : Nat × Tile) => e.2.hosts jid x.addr ||
    (e.2.awaits x.addr && ownedBy e.2.owner jid))).map (·.1)
  let n := host.getD ((s.tilesOf jid).headD 0)
  let f : Failure := { detail := 3, task := x.addr, tile := n, seq := s.seqOf jid x.addr }
  let r : Run := { rcd := x.asRecord gid, job := jid, pc := 0, stall := if a.held then some ⟨.staging, 0⟩ else none }
  if host.isNone && inWindow a.va then
    match a.rel with
    | none => (match s.awayAmo jid gid x a with
      | some s => .ok s
      | none => .failed (s.gangError jid gid f))
    | some k => if s.devBad jid (s.jobSite jid) (x.addr - Config.recOff + k) (Ty.bytes a.ty) accLoad then .failed (s.gangError jid gid f)
      else match s.frameAmo jid gid x.addr k a with
      | .ok (old, s) => .ok (s.gotAmo jid gid x.addr old)
      | .error e => if ((s.job? jid).map (·.blocked.contains x.addr)).getD false then .full s
                    else .failed (s.frameFault 0xFFFF jid gid x.addr f.seq e)
  else
    match asTask s n r (do
        let ls ← checkLanes .returning [(a.va, Ty.bytes a.ty)]
        let olds ← ls.mapM (fun l => atomicLane l a.op a.ty a.val a.cmp true)
        pure (olds.headD 0)) with
    | .ok (old, s) => .ok (s.gotAmo jid gid x.addr old)
    | .error (.stall .staging) => .full (s.mapTask jid gid x.addr (fun y => { y with amo := some { a with held := true } }))
    | .error (.stall _) | .error (.trap 0x09 _) => .full s
    | .error .exhausted => .failed (s.failGang jid gid { f with detail := 6 })
    | .error .ue => .failed (s.gangError jid gid f)
    | .error _ => .failed (s.mapTask jid gid x.addr (fun y => { y with amo := none, amof := none, ended := false }))

end Sys2Proof.Machine
end

