-- ==== Sys2Proof/Machine/Mat.lean ====
section
/-! DEFINITION. Mat.lean: the matrix state of a tile (R218 to R220, R326) and its operations (R225 to R231), carried out at once
on a tile (R222), for the tile's own instructions and for remote commands (R235). -/
namespace Sys2Proof.Machine

/-! The state, at the offsets of the save band (R326). -/

abbrev offAcc : Nat := 0x40000
abbrev offTcfg : Nat := 0x60000
def rowAt (k : TReg) (r : Nat) : Nat := 0x8000 * k.val + 256 * r
def accAt (m : MReg) (p q : Nat) : Nat := offAcc + 0x10000 * m.val + 512 * p + 4 * q

/-- One byte, and n bytes as a number. -/
def MatState.get (m : MatState) (a : Nat) : Byte := m.bytes.get a
def MatState.readLE (m : MatState) (a n : Nat) : Nat := m.bytes.readLE a n

/-- Some byte of [a, a + n) is poisoned. -/
def MatState.spoilt (m : MatState) (a n : Nat) : Bool := m.bad.any (fun u => decide (8 * u < a + n) && decide (a < 8 * u + 8))

/-- Poison that is left when [a, a + n) has been written: a unit written whole is good again (R239, as R146). -/
def MatState.badPast (m : MatState) (a n : Nat) : NSet := m.bad.filter (fun u => !(decide (a ≤ 8 * u) && decide (8 * u + 8 ≤ a + n)))

def MatState.write (m : MatState) (a : Nat) (bs : List Byte) : MatState := ⟨m.bytes.writeBytes a bs, m.badPast a bs.length⟩
def MatState.zero (m : MatState) (a n : Nat) : MatState := ⟨m.bytes.zero a n, m.badPast a n⟩

/-- Bytes of matrix state written: the clean mark goes (R326), the register is journaled (R331). -/
def Tile.putMat (t : Tile) (reg a : Nat) (bs : List Byte) : Tile :=
  { t with mat := t.mat.write a bs, matClean := false,
           mregs := if t.journaling then NSet.insert reg t.mregs else t.mregs }

def Tile.tcfg (t : Tile) (k : TReg) : Word := t.mat.bytes.word (offTcfg + 8 * k.val)
/-- TCFGk written, reserved bits zero (R219). -/
def Tile.setTcfg (t : Tile) (k : TReg) (v : Word) : Tile :=
  t.putMat (10 + k.val) (offTcfg + 8 * k.val) (leBytes 8 (v.toNat % 2 ^ 22))

/-- A configuration (R219). -/
structure TCfg where
  ty : Ty
  rows : Nat
  cols : Nat
  deriving DecidableEq, Repr

def Tile.conf (t : Tile) (k : TReg) : TCfg :=
  let v := t.tcfg k
  ⟨Ty.ofCode (v.extractLsb' 0 4), (v.extractLsb' 4 8).toNat, (v.extractLsb' 12 10).toNat⟩

def TCfg.rb (c : TCfg) : Nat := (c.cols * c.ty.bits + 7) / 8
def TCfg.ok (c : TCfg) : Bool := decide (1 ≤ c.rows) && decide (c.rows ≤ 128) && decide (1 ≤ c.cols) && decide (c.rb ≤ 256)

/-- Poison in what an operation reads: some TCFG, then some rows or parts of rows (R239). -/
def Tile.cfgBad (t : Tile) (ks : List TReg) : Bool := ks.any (fun k => t.mat.spoilt (offTcfg + 8 * k.val) 8)
/-- Bytes [o, o + m) of the first n rows of a tile register. -/
def Tile.rowsBad (t : Tile) (k : TReg) (n o m : Nat) : Bool := (List.range n).any (fun r => t.mat.spoilt (rowAt k r + o) m)
/-- Elements [q, q + m) of rows [p, p + n) of an accumulator. -/
def Tile.accBad (t : Tile) (k : MReg) (p q n m : Nat) : Bool := (List.range n).any (fun r => t.mat.spoilt (accAt k (p + r) q) (4 * m))

/-- Row r of a tile register as a number, its first n bytes. -/
def Tile.row (t : Tile) (k : TReg) (r n : Nat) : Nat := t.mat.readLE (rowAt k r) n
/-- Element c of a row of elements of s bits (R218). -/
def rowElem (s row c : Nat) : Nat := row / 2 ^ (s * c) % 2 ^ s

/-! How an operation's issue checks fail (R224). -/

inductive MatBad where
  | illegal
  | misaligned (v : Word)
  | perm (off : Nat)
  | poison
  deriving DecidableEq, Repr

/-- What an operation leaves: the tile and the flags it raises. -/
abbrev MatDone := Except MatBad (Tile × Fl)

/-- The lowest byte of some ranges that lies at or past the scratchpad's end, or, for a destination, in the control range. DEDUCED
(log 146): tst is refused there in supervisor mode too, as its entry says (R226). -/
def lowestBad (size : Nat) (t : Tile) (dest : Bool) (rs : List (Nat × Nat)) : Option Nat :=
  (lowestFault (rs.filterMap (fun r =>
    let past := if size < r.1 + r.2 then some (max r.1 size) else none
    let lo := t.base + 0x1480
    let ctl := if dest && decide (r.1 < t.base + 0x1800) && decide (lo < r.1 + r.2) then some (max r.1 lo) else none
    match past, ctl with
    | some a, some b => some (min a b, 0)
    | some a, none => some (a, 0)
    | none, some b => some (b, 0)
    | none, none => none))).map (·.1)

/-- Ranges of a copy between a tile register and the scratchpad: base and length of each (R226). -/
def copyRanges (c : TCfg) (transposed : Bool) (a st : Nat) : List (Nat × Nat) :=
  if transposed then (upFrom st a c.cols).map (fun x => (x, (c.rows * c.ty.bits + 7) / 8))
  else (upFrom st a c.rows).map (fun x => (x, c.rb))

/-- A stride given as a negative immediate is at least 2^63 and out of range, even where no second row uses it (R226). -/
def farStride : OpB → Bool
  | .imm v => v.msb
  | .reg _ => false

/-- The issue checks of tld, tldt and tst (R226). DESIGN CHOICE (log 149): their order, which R226 does not give; TVAL of an offset at or
above 2^64 is taken modulo 2^64, and that of a negative immediate stride with one row is a + st. -/
def copyCheck (size : Nat) (t : Tile) (d : TReg) (transposed dest : Bool) (a st : Word) (far : Bool) :
    Except MatBad (List (Nat × Nat)) :=
  let c := t.conf d
  if !c.ok then .error .illegal
  else if a.toNat % 32 ≠ 0 then .error (.misaligned a)
  else if st.toNat % 32 ≠ 0 then .error (.misaligned st)
  else
    let rs := copyRanges c transposed a.toNat st.toNat
    match lowestBad size t dest rs with
    | some o => .error (.perm o)
    | none => if far then .error (.perm (a.toNat + st.toNat)) else .ok rs

def tldOp (size : Nat) (t : Tile) (d : TReg) (a st : Word) (far : Bool) : MatDone :=
  if t.cfgBad [d] then .error .poison else do
  let rs ← copyCheck size t d false false a st far
  if rs.any (fun r => t.spBad r.1 r.2) then .error .poison
  else
    .ok ((List.range rs.length).foldl (fun u r =>
      u.putMat d.val (rowAt d r) (t.taskBytes (a.toNat + r * st.toNat) (t.conf d).rb)) t, 0)

/-- tldt: a row whose last byte keeps bits of its own reads that byte (R226). -/
def tldtOp (size : Nat) (t : Tile) (d : TReg) (a st : Word) (far : Bool) : MatDone :=
  if t.cfgBad [d] then .error .poison else do
  let c := t.conf d
  let rs ← copyCheck size t d true false a st far
  if rs.any (fun r => t.spBad r.1 r.2) || (c.cols * c.ty.bits % 8 != 0 && t.rowsBad d c.rows (c.rb - 1) 1) then .error .poison
  else
    let s := c.ty.bits
    let srcs := rs.map (fun r => leVal (t.taskBytes r.1 r.2))
    .ok ((List.range c.rows).foldl (fun u r =>
      let old := t.row d r c.rb
      let val := vOfElems s (srcs.map (fun x => rowElem s x r))
      u.putMat d.val (rowAt d r) (leBytes c.rb (val + old / 2 ^ (s * c.cols) * 2 ^ (s * c.cols)))) t, 0)

def tstOp (size : Nat) (t : Tile) (d : TReg) (a st : Word) (far : Bool) : MatDone :=
  if t.cfgBad [d] then .error .poison else do
  let c := t.conf d
  let rs ← copyCheck size t d false true a st far
  if t.rowsBad d c.rows 0 c.rb then .error .poison
  else .ok ((List.range rs.length).foldl (fun u r =>
    u.storeSp (a.toNat + r * st.toNat) (leBytes c.rb (t.row d r c.rb % 2 ^ (c.ty.bits * c.cols)))) t, 0)

def tzeroOp (t : Tile) (d : TReg) : Tile :=
  { t with mat := t.mat.zero (rowAt d 0) 32768, matClean := false,
           mregs := if t.journaling then NSet.insert d.val t.mregs else t.mregs }

def mclrOp (t : Tile) (d : MReg) : Tile :=
  { t with mat := t.mat.zero (accAt d 0 0) 65536, matClean := false,
           mregs := if t.journaling then NSet.insert (8 + d.val) t.mregs else t.mregs }

/-- TCFG of an immediate (R225). -/
def mcfgVal (ty : Ty) (rows : BitVec 8) (cols : BitVec 10) : Word :=
  word (ty.code + 16 * rows.toNat + 4096 * cols.toNat)

/-- Operand types of mmac and mmacs (R228). -/
def macTypes (scaled : Bool) (a b : Ty) : Bool :=
  if scaled then b == .ss8 && [Ty.s8, .e4m3, .e5m2].contains a
  else (a == b && [Ty.s8, .f16, .bf16, .e4m3, .e5m2, .s4, .e2m1].contains a)
    || (a == .e4m3 && b == .e5m2) || (a == .e5m2 && b == .e4m3)

/-- The counter of an operand pair (R351). -/
def macCounter (scaled : Bool) (a b : Ty) : Nat :=
  if scaled then 7
  else if a ≠ b then 6
  else match a with
    | .s8 => 1
    | .f16 => 2
    | .bf16 => 3
    | .e4m3 => 4
    | .e5m2 => 5
    | .s4 => 8
    | _ => 9

def macCheck (t : Tile) (scaled : Bool) (row0 col0 : Nat) (a b : TReg) : Bool :=
  let ca := t.conf a
  let cb := t.conf b
  ca.ok && cb.ok && ca.cols == cb.cols && decide (ca.cols ≤ 256) && decide (row0 + ca.rows ≤ 128)
    && decide (col0 + cb.rows ≤ 128) && macTypes scaled ca.ty cb.ty

/-- The values of a row of a tile register (R173, R175, R177). -/
def Tile.rowVals (t : Tile) (k : TReg) (c : TCfg) (r : Nat) : List Num :=
  let row := t.row k r c.rb
  (List.range c.cols).map (fun i => valueOf c.ty (rowElem c.ty.bits row i))

/-- One row of accumulator elements updated: new patterns and flags, for each column. -/
def accRow (md : Rnd) (sat : Bool) (sr : VWord) (p col0 : Nat) (old : List Nat) (terms : List (List Term)) : List Nat × Fl :=
  let xs := (old.zip terms).zipIdx.map (fun e => windowSum e.1.1 e.1.2 md sat (srWord sr (128 * p + col0 + e.2)))
  (xs.map (·.1), xs.foldl (fun f x => f ||| x.2) 0)

/-- Elements of a row of an accumulator. -/
def Tile.accElems (t : Tile) (m : MReg) (p q n : Nat) : List Nat :=
  let row := t.mat.readLE (accAt m p q) (4 * n)
  (List.range n).map (fun j => rowElem 32 row j)

/-- What an operation counts on its tile: nothing when supervisor code issued it (R351). -/
def Tile.countIf (t : Tile) (counts : Bool) (k n : Nat) : Tile := if counts then t.count k n else t

/-- mmac and mmacs. -/
def mmacOp (counts : Bool) (t : Tile) (scaled : Bool) (md : Rnd) (sat : Bool) (sr : VWord) (row0 col0 : Nat) (d : MReg) (a b : TReg) :
    MatDone :=
  if t.cfgBad [a, b] then .error .poison
  else if !macCheck t scaled row0 col0 a b then .error .illegal
  else if t.rowsBad a (t.conf a).rows 0 (t.conf a).rb || t.rowsBad b (t.conf b).rows 0 (t.conf b).rb
      || t.accBad d row0 col0 (t.conf a).rows (t.conf b).rows then .error .poison
  else
    let ca := t.conf a
    let cb := t.conf b
    let bs := (List.range cb.rows).map (fun j => t.rowVals b cb j)
    let t' := (List.range ca.rows).foldl (fun (acc : Tile × Fl) i =>
      let av := t.rowVals a ca i
      let terms := bs.map (fun bv => (av.zip bv).map (fun x => Term.prod [x.1, x.2]))
      let (ps, f) := accRow md sat sr (row0 + i) col0 (t.accElems d (row0 + i) col0 cb.rows) terms
      (acc.1.putMat (8 + d.val) (accAt d (row0 + i) col0) (leBytes (4 * cb.rows) (vOfElems 32 ps)), acc.2 ||| f)) (t, 0)
    .ok (t'.1.countIf counts (macCounter scaled ca.ty cb.ty) (ca.rows * cb.rows * ca.cols), t'.2)

/-- Multiply-accumulates of an operation, for REPMAC (R351). -/
def macsOf (t : Tile) (a b : TReg) : Nat := (t.conf a).rows * (t.conf b).rows * (t.conf a).cols

/-- The term of an element of mscale (R230). -/
def scaleTerm (x : Nat) (sa sb : Nat) : Term :=
  match sc20 (sa % 2 ^ 20), sc20 (sb % 2 ^ 20) with
  | some a, some b => Term.prod [valueOf .f32 x, .fin false a.1 a.2, .fin false b.1 b.2]
  | _, _ => .badScale

def mscaleOp (counts : Bool) (t : Tile) (md : Rnd) (sat : Bool) (row0 col0 kb : Nat) (d a : MReg) (b c : TReg) : MatDone :=
  let cb := t.conf b
  let cc := t.conf c
  if t.cfgBad [b, c] then .error .poison
  else if !(cb.ok && cc.ok && cb.ty == .n32 && cc.ty == .n32 && decide (kb < cb.cols) && decide (kb < cc.cols)
      && decide (row0 + cb.rows ≤ 128) && decide (col0 + cc.rows ≤ 128)) then .error .illegal
  else if t.rowsBad b cb.rows (4 * kb) 4 || t.rowsBad c cc.rows (4 * kb) 4 || t.accBad d row0 col0 cb.rows cc.rows
      || t.accBad a row0 col0 cb.rows cc.rows then .error .poison
  else
    let sb := (List.range cc.rows).map (fun j => rowElem 32 (t.row c j cc.rb) kb)
    let t' := (List.range cb.rows).foldl (fun (acc : Tile × Fl) i =>
      let sa := rowElem 32 (t.row b i cb.rb) kb
      let terms := ((t.accElems a (row0 + i) col0 cc.rows).zip sb).map (fun x => [scaleTerm x.1 sa x.2])
      let (ps, f) := accRow md sat 0 (row0 + i) col0 (t.accElems d (row0 + i) col0 cc.rows) terms
      (acc.1.putMat (8 + d.val) (accAt d (row0 + i) col0) (leBytes (4 * cc.rows) (vOfElems 32 ps)), acc.2 ||| f)) (t, 0)
    .ok (t'.1.countIf counts 10 (cb.rows * cc.rows), t'.2)

/-! Another task's use of the unit while a root waits (R160). -/

/-- The waiting root's state goes to the save pool before another task first touches the unit, which waits for room there (R160,
R326). -/
def prepM : M Unit := do
  let s ← get
  let t ← tileM
  if t.root.any (·.mat.isNone) && !s.poolRoom s.cur (matNeed t.matClean) then stall .matrixWait else modTile Tile.prepMat

end Sys2Proof.Machine
end

