-- ==== Sys2Proof/Machine/Barriers.lean ====
section
/-! DEFINITION. Barriers.lean: arrive, wait, sstep and the completion of a generation (R315 to R317, R331), tcommit, trd, thead
(R318, R319). -/
namespace Sys2Proof.Machine

/-- Barrier state of a root for an id (R315). -/
def Gang.bar (g : Gang) (root : Nat) (k : Fin 8) : Barrier :=
  (g.bars.find? (fun b => decide (b.root = root) && decide (b.k = k))).getD { root := root, k := k }

def Gang.setBar (g : Gang) (b : Barrier) : Gang :=
  { g with bars := g.bars.filter (fun x => !(decide (x.root = b.root) && decide (x.k = b.k))) ++ [b] }

/-- The generation of a root's barrier is complete. -/
def Gang.genDone (g : Gang) (b : Barrier) : Bool := decide (g.gens.getD b.k.val 0 ≠ b.gen)

/-- The common traps of R316; the gang and the root's barrier. -/
def barrierM (k : Fin 8) : M (Gang × Barrier) := do
  let r ← runM
  match ← gangM with
  | none => trap 0x0D (word k.val)
  | some g =>
    if g.desc.cls ≠ 2 || r.rcd.depth ≠ r.rcd.rootw || !g.desc.bars.getLsbD k.val then trap 0x0D (word k.val)
    else pure (g, g.bar r.rcd.rootIndex k)

def execArrive (p : Pred) (k : Fin 8) : State → Host.Outcome State Fault Refusal :=
  perform (whole p do
    let (_, b) ← barrierM k
    if b.arr then trap 0x0D (word k.val)
    else do
      releaseM .gang
      modGang (fun g => g.setBar { b with arr := true, byStep := false })
      pure .next)

/-- Under DSM the first issue of wait and sstep ends the task's part, and it stays blocked while it stalls (R53). -/
def endPart (k : Fin 8) : M Unit := do
  match ← gangM with
  | some g =>
    if g.desc.dsm then
      modTask (fun x => if x.waits = some k then x else { x with ended := true, blocked := true, waits := some k })
    else pure ()
  | none => pure ()

/-- The wait for a generation: it completes, or the instruction stalls with what it has done so far (R316). -/
def waitGen (g : Gang) (b : Barrier) : M Flow := do
  endPart b.k
  if g.genDone b then do
    modGang (fun g => g.setBar { b with gen := b.gen + 1, arr := false, byStep := false })
    modTask (fun x => { x with blocked := false, waits := none })
    acquireM .gang
    pure .next
  else failKeep (.stall (.barrier b.k))

def execWait (p : Pred) (k : Fin 8) : State → Host.Outcome State Fault Refusal :=
  perform (whole p do
    let (g, b) ← barrierM k
    if !b.arr then trap 0x0D (word k.val) else waitGen g b)

/-- A request of a task that has neither completed nor failed. -/
def State.requestOpen (s : State) (r : Run) : Bool :=
  s.barges.any (fun (b : Barge) => decide (b.job = r.job) && decide (b.task = r.taskAddr) && b.failed.isNone)

/-- A command of a task that has not completed at its target (R236). -/
def State.commandOpen (s : State) (r : Run) : Bool :=
  s.tiles.any (fun (e : Nat × Tile) => e.2.mq.any (fun o => o.sender == some r.taskAddr)) || (s.tile s.cur).msg.isSome

def execSstep (p : Pred) (k : Fin 8) : State → Host.Outcome State Fault Refusal :=
  perform (whole p do
    let (g, b) ← barrierM k
    let r ← runM
    if b.arr then
      (if b.byStep then waitGen g b else trap 0x0D (word k.val))
    else do
      let s ← get
      endPart k
      if s.requestOpen r then failKeep (.stall .barge)
      else if s.commandOpen r then failKeep (.stall .matrixWait)
      else do
        releaseM .gang
        let b := { b with arr := true, byStep := true }
        modGang (fun g => g.setBar b)
        waitGen g b)

/-! Completion of a generation (R317). -/

/-- Every root has arrived at the generation of an id: a root that has ended since keeps what it had (R315). -/
def Gang.allArrived (g : Gang) (k : Fin 8) : Bool :=
  (List.range g.desc.ntask).all (fun i => (g.bar i k).arr && decide ((g.bar i k).gen = g.gens.getD k.val 0))

/-- A new journal for each root, which runs or waits on its tile, from the tile as it stands (R331): with the barrier whose sstep
closed the superstep, at the PC after it and with its wait over, else at ENTRY. -/
def State.startJournals (s : State) (jid gid : Nat) (by_ : Option (Fin 8)) : State :=
  match s.gang? jid gid with
  | none => s
  | some g =>
    if !g.journalsOn then s.setGang jid gid { g with norestore := false, macs := 0 }
    else
      let pcOf (pc : Word) : Word := if by_.isSome then nextPc pc else pc
      let natom (i : Nat) : Nat := ((g.liveTasks.find? (fun t => t.root == some i)).map (·.natom)).getD 0
      let js := g.placed.zipIdx.filterMap (fun e => match (s.tile e.1).root, (s.tile e.1).run with
        | some w, _ => some (Journal.mk e.2 (s.tile e.1).sp (w.mat.getD (s.tile e.1).mat) [] [] (pcOf w.rcd.cp) (s.tile e.1).spPoison (natom e.2))
        | none, some r => some (Journal.mk e.2 (s.tile e.1).sp (s.tile e.1).mat [] [] (pcOf r.pc) (s.tile e.1).spPoison (natom e.2))
        | none, none => none)
      let s := { s with tiles := s.tiles.map (fun (e : Nat × Tile) =>
        if g.placed.contains e.1 then (e.1, { e.2 with journaling := true, units := [], mregs := [] }) else e) }
      s.setGang jid gid { g with
        journals := js
        doneRoots := []
        norestore := g.liveTasks.any (fun t => t.root.isNone)
        macs := 0
        jbars := g.bars.map (fun (b : Barrier) => if some b.k = by_ then { b with gen := b.gen + 1, arr := false, byStep := false } else b)
        jgens := g.gens
        jquantum := if g.tasks.any (·.ended) then g.quantum + 1 else g.quantum }

/-- A generation completes: every wait of it may end, and the tasks blocked at it are blocked no longer (R53); when every root came
by sstep the superstep closes. -/
def State.completeGen (s : State) (jid gid : Nat) (k : Fin 8) : State :=
  match s.gang? jid gid with
  | none => s
  | some g =>
    if !(g.live && !g.out && g.allArrived k) then s
    else
      let byStep := (List.range g.desc.ntask).all (fun i => (g.bar i k).byStep)
      let g : Gang := { g with
        gens := g.gens.set k.val (g.gens.getD k.val 0 + 1)
        tasks := g.tasks.map (fun (t : TaskInfo) => if t.waits = some k then { t with blocked := false } else t) }
      if !byStep then s.setGang jid gid g
      else
        let g : Gang := { g with batches := g.batches.map (fun (b : Batch) => { b with held := false }) }
        let g1 : Gang := g.seal false (fun _ => true)
        let g : Gang := { g1 with step := g.step + 1 }
        (s.setGang jid gid g).startJournals jid gid (some k)

def execBarrierGenerationComplete (job gang : Nat) (k : Fin 8) (s : State) : Host.Outcome State Fault Refusal :=
  .next (s.completeGen job gang k)

/-! Commit points and tickets (R318, R319). -/

/-- The running task's open entries sealed as one batch, held in a gang that journals (R301, R304). -/
def sealMine : M Unit := do
  let r ← runM
  modGang (fun g => g.seal g.journalsOn (fun e => decide (e.key = r.rcd.key)))

/-- Every batch whose entries have applied has ended: a die-hashed unit of it is on every copy (R303). -/
def Gang.batchesEnded (g : Gang) : Bool := g.batches.all (fun b => g.entries.any (fun e => e.batch == some b.id))

def execTcommit (p : Pred) (wait : Bool) : State → Host.Outcome State Fault Refusal :=
  perform (whole p do
    noBorder
    let r ← runM
    let s ← get
    match s.runGang r with
    | none => illegal
    | some g =>
      if wait && (g.journalsOn || g.desc.digest = 2) then illegal
      else if s.requestOpen r then stall .barge
      else do
        sealMine
        if !wait then pure .next
        else do
          let s ← get
          let mine (e : Entry) : Bool := decide (e.key = r.rcd.key) && e.batch.isSome
          if (s.runGang r).any (fun g => g.entries.any mine || !g.batchesEnded || !(s.job? r.job).any (g.head ·)) then failKeep (.stall .commit)
          else do
            acquireM .package
            pure .next)

def execTrd (p : Pred) (d : WReg) (stream : Fin 16) (tail : Bool) : State → Host.Outcome State Fault Refusal :=
  perform (whole p do
    let r ← runM
    let s ← get
    let st : Stream := match s.job? r.job with
      | some j => j.stream stream.val
      | none => {}
    wrW d (if st.opened then word (if tail then st.tail else st.head) else 0)
    pure .next)

def execThead (p : Pred) (d : WReg) (wait : Bool) : State → Host.Outcome State Fault Refusal :=
  perform (whole p do
    noBorder
    let r ← runM
    let s ← get
    match s.job? r.job, s.runGang r with
    | some j, some g =>
      if wait && !g.head j then stall .head
      else do
        wrW d (if g.head j then 1 else 0)
        pure .next
    | _, _ => illegal)

end Sys2Proof.Machine
end

