-- ==== Sys2Proof/Machine/Tasks.lean ====
section
/-! DEFINITION. Tasks.lean: done, yield, fork, join, spawn, suspend, the waking of a suspended record, launch, gdone (R158 to
R160, R167 to R172). -/
namespace Sys2Proof.Machine

/-! Leaving the tile. -/

/-- The task waits for a reply about a frame (R408). -/
def waitFrame (addr : Nat) : M Unit := do
  let r ← runM
  let s ← get
  if ((s.job? r.job).map (·.blocked.contains addr)).getD false then stall .frame else pure ()

/-- Matrix operations of the tile complete before its task leaves (R221, R223). -/
def waitMatrix : M Unit := do if (← tileM).mq.isEmpty then pure () else stall .matrixWait

/-- Requests with bytes in the scratchpad complete before the task leaves it; frozen ones fail (R285). DEDUCED (log 144): a root that
waits on its own tile (R160) leaves its scratchpad there, and its requests go on. -/
def waitScratch : M Unit := do
  let r ← runM
  let s ← get
  if s.isResident r.job r.rcd then pure ()
  else if s.scratchBusy s.cur then stall .barge
  else set (s.failFrozen s.cur)

/-- The running task's record written back by its own suspension (R19, R168), under DSM with its count of the quantum kept (R53,
log 93); its frame's fault holds the tile (R408). -/
def leaveM (live : Nat) : M Record := do
  let r ← runM
  waitFrame r.taskAddr
  waitMatrix
  waitScratch
  (if (← tileM).spBad (← tileM).base (8 * live) then fail .ue else pure ())
  let s0 ← get
  countM
  let t ← tileM
  (if (← gangM).any (·.desc.dsm) then modTask (fun x => { x with qkept := some (t.ctl cQCOUNT).toNat }) else pure ())
  let s ← get
  let rcd := r.written (nextPc r.pc) live false
  match s.writeBack s.cur r.job rcd with
  | .ok s' => do
    set s'
    pure rcd
  | .error f => do
    set (s0.frameFault s0.cur r.job r.gid rcd.addr rcd.seq.toNat f)
    failKeep (.stall .frame)

/-! done (R158). -/

/-- The decrement done owes its parent at once; a fault of the parent's frame holds the task (R408). -/
def payParent (parent : Nat) : M Unit := do
  let r ← runM
  waitFrame parent
  let s ← get
  match s.decJC r.job r.gid parent (some r.rcd) with
  | .ok s' => set s'
  | .error f => do
    let s := s.frameHold s.cur r.job r.gid parent (s.seqOf r.job parent) f
    set (if f.poison then s.decError r.job r.gid parent (some r.rcd) else s)
    failKeep (.stall .frame)

/-- A task that ends before its children keeps its JC for their decrements (R20, log 60); a root is kept for a rollback of its
superstep (R333). -/
def Gang.leave (g : Gang) (r : Record) : Gang :=
  let g := match g.task? r.addr with
    | some t => if g.journalsOn && t.root.isSome then { g with doneRoots := g.doneRoots ++ [(t, r)] } else g
    | none => g
  if r.jc = 0 then g
  else { g with outlived := g.outlived.filter (fun p => decide (p.1 ≠ r.addr)) ++ [(r.addr, r.jc.toNat)] }

/-- The task of a gang is no longer live; under DSM a parent's decrement is owed until the close (R54). -/
def Gang.endTask (g : Gang) (addr : Nat) (owed : Option Nat) : Gang :=
  match owed with
  | some p => g.mapTask addr (fun t => { t with ended := true, blocked := false, owes := some p })
  | none => { g with tasks := g.tasks.filter (fun t => !(decide (t.addr = addr) && t.owes.isNone)) }

/-- The gang retires once no live task and no owed decrement remains (R158, R54); a measured gang only after its last pass
(R354). -/
def State.maybeRetire (s : State) (jid gid : Nat) : State :=
  match s.gang? jid gid with
  | some g => if g.phase == .running && g.tasks.isEmpty && !g.morePasses then s.retireGang jid gid else s
  | none => s

def execDone (p : Pred) : State → Host.Outcome State Fault Refusal :=
  perform (whole p do
    let r ← runM
    waitMatrix
    let s ← get
    if s.requestOpen r then stall .barge
    else if s.commandOpen r then stall .matrixWait
    else do
      let g ← gangM
      let dsm := g.any (·.desc.dsm)
      releaseM .gang
      (if r.rcd.parent ≠ 0 && !dsm then payParent r.rcd.parent.toNat else pure ())
      countM
      modState (fun s =>
        let s := s.freeTile s.cur
        if r.border then
          match s.job? r.job with
          | some j => (s.setJob r.job (j.freeUpcall r.taskAddr)).frameFreed r.job
          | none => s
        else
          match s.gang? r.job r.gid with
          | some g => (s.setGang r.job r.gid ((g.leave r.rcd).endTask r.taskAddr
              (if dsm && r.rcd.parent ≠ 0 then some r.rcd.parent.toNat else none))).maybeRetire r.job r.gid
          | none => s)
      pure .left)

/-! yield (R159). -/

/-- The record yield hands the tile to, and the state without it: from the head of its own deque, else the front of the ready
queue. A tile that takes no new record gets none (R61, R70, R78). -/
def State.offer (s : State) (n jid : Nat) : Option (Record × State) :=
  match s.job? jid with
  | none => none
  | some j =>
    let t := s.tile n
    if !t.works jid then none
    else match pickFirst (s.mayTakeOwn n jid j) t.deque with
    | some (r, d) => some (r, s.putDeque n d)
    | none => match pickFirst (s.mayTake n jid j) j.ready with
      | some (r, q) => some (r, s.setJob jid { j with ready := q })
      | none => none

/-- The tile as it stands once the yielding record has left it; a root's workspace stays there (R160). -/
def State.vacate (s : State) (n jid : Nat) (rcd : Record) : State :=
  if s.isResident jid rcd then
    s.setTile n { s.tile n with run := none, idle := 0, root := some { rcd := rcd, job := jid, base := (s.tile n).base } }
  else s.freeTile n

/-- The offered record restored and the yielding one pushed at the tail of the deque. An offered record that fails its checks is
gone and the tile is idle (R14, R15); what else makes the restore fail is dealt with, and the yield is made again. -/
def takeOffer (jid n : Nat) (back : State) (rcd : Record) (o : Record × State) : M Flow :=
  match o.2.liftRecord jid n o.1 with
  | (s, none) => do
    set (s.pushDeque n rcd false)
    pure .left
  | (s, some r) =>
    if s.frameBad n jid r then do
      set (back.taskError jid r n)
      failKeep (.stall .frame)
    else match s.bringIn n jid r with
      | .ok s => do
        set ((s.pushDeque n rcd false).settleReady jid)
        pure .left
      | .error f => do
        set (back.frameFault n jid r.gang.toNat r.addr r.seq.toNat f)
        failKeep (.stall .frame)

def execYield (p : Pred) (live : BitVec 10) : State → Host.Outcome State Fault Refusal :=
  perform (whole p do
    let r ← runM
    waitMatrix
    let s ← get
    let gone := r.written (nextPc r.pc) live.toNat false
    if ((s.vacate s.cur r.job gone).offer s.cur r.job).isNone then pure .next
    else do
      let rcd ← leaveM live.toNat
      modState (fun s => s.vacate s.cur r.job rcd)
      match (← get).offer s.cur r.job with
      | some o => takeOffer r.job s.cur s rcd o
      | none => do
        modState (fun s => s.pushDeque s.cur rcd false)
        pure .left)

/-! fork and spawn (R167). -/

/-- The record of a child. -/
def Record.child (r : Record) (cp fp : Word) (live : Nat) (stage : BitVec 16) (join : Bool) : Record where
  cp := cp
  fp := fp
  live := BitVec.ofNat 16 live
  stage := stage
  lin := linSet r.lin (r.depth + 1) r.next
  gang := r.gang
  flags := mkFlags (r.depth + 1) 0 r.rootw false r.handler
  parent := if join then word r.addr else 0

/-- A frame lies within one PRIV entry of the gang, in the border context of a live gang of the job. -/
def State.frameOk (s : State) (r : Run) (fp : Nat) : Bool :=
  let foots := if r.border then
      match s.job? r.job with
      | some j => j.liveGangs.flatMap (fun e => e.2.foot)
      | none => []
    else s.footOf r
  foots.any (fun f => f.kind == .priv && decide (f.base ≤ fp) && decide (fp + 0x1800 ≤ f.base + f.len))

/-- Stage count of a task: its gang's; in the border context the largest there is (log 27). -/
def stageCount (g : Option Gang) : Nat := (g.map (·.desc.nstage)).getD 65535

/-- The child given its place: the head of a deque (fork), the tail of the ready queue (spawn). None when there is no room. -/
def State.placeChild (s : State) (n : Nat) (r : Run) (g : Option Gang) (c : Record) (spawn : Bool) : Option State :=
  match s.job? r.job with
  | none => none
  | some _ =>
    if spawn then
      let s := s.settleReady r.job
      if (s.job? r.job).any (fun j => j.pending.isEmpty && decide (j.ready.length < j.readyQN)) then some (s.enqueue r.job c false)
      else none
    else
      let k := s.placeTile n r.job g c.stage
      if s.dequeRoom r.job k then some (s.pushDeque k c true) else none

/-- The child known to its gang, or to the border context with the regions of its parent (R409). -/
def State.addTask (s : State) (r : Run) (c : Record) : State :=
  if r.border then
    match s.job? r.job with
    | some j =>
      (match j.upcallOf r.taskAddr with
      | some u => s.setJob r.job { j with upcalls := j.upcalls ++ [{ u with frame := 16, addr := c.addr, args := [] }] }
      | none => s)
    | none => s
  else
    match s.gang? r.job r.gid with
    | some g => s.setGang r.job r.gid { g with
        tasks := g.tasks ++ [{ key := c.key, addr := c.addr, ended := g.desc.dsm }]
        norestore := true }
    | none => s

def createM (spawn : Bool) (d a b : WReg) (join : Bool) (live : BitVec 10) (stage : BitVec 16) : M Flow := do
  let r ← runM
  let g ← gangM
  let cp ← rdW a
  let fp ← rdW b
  if 688 < live.toNat || r.rcd.next = 16 || r.rcd.depth = 32 || stageCount g ≤ stage.toNat || !cpOk cp || !fpOk fp then illegal
  else if !(← get).frameOk r fp.toNat then trap 0x07 fp
  else do
    let c := r.rcd.child cp fp live.toNat stage join
    match (← get).placeChild (← get).cur r g c spawn with
    | none => stall .spawnFull
    | some s => do
      set s
      releaseM .gang
      modTile (fun t => { t with run := t.run.map (fun x =>
        { x with rcd := { x.rcd.setNext (r.rcd.next + 1) with jc := if join then x.rcd.jc + 1 else x.rcd.jc } }) })
      modState (fun s => s.addTask r c)
      wrW d (word r.rcd.next)
      pure .next

def execFork (p : Pred) (d a b : WReg) (join : Bool) (live : BitVec 10) (stage : BitVec 16) :
    State → Host.Outcome State Fault Refusal :=
  perform (whole p (createM false d a b join live stage))

def execSpawn (p : Pred) (d a b : WReg) (join : Bool) (live : BitVec 10) (stage : BitVec 16) :
    State → Host.Outcome State Fault Refusal :=
  perform (whole p (createM true d a b join live stage))

/-! join and suspend (R169, R170). -/

/-- A task of a DSM gang is suspended: it has ended its part of the quantum and stays blocked (R53). -/
def blockTask : M Unit := do
  if (← gangM).any (·.desc.dsm) then modTask (fun t => { t with ended := true, blocked := true, joining := false }) else pure ()

/-- Suspension for a reason. -/
def suspendM (live : Nat) (why : SuspWhy) : M Flow := do
  let r ← runM
  let rcd ← leaveM live
  blockTask
  modState (fun s => s.leaveSuspended s.cur r.job rcd why)
  pure .left

/-- join. Under DSM its issue ends the task's part, and the close of the quantum decides it (R54): it is carried out when the
task next issues. -/
def execJoin (p : Pred) (live : BitVec 10) : State → Host.Outcome State Fault Refusal :=
  perform (whole p do
    let r ← runM
    let g ← gangM
    let info := g.bind (·.task? r.taskAddr)
    if 688 < live.toNat then illegal
    else if g.any (·.desc.dsm) && !info.any (·.joining) then do
      modTask (fun t => { t with ended := true, joining := true })
      failKeep (.stall .taskEnd)
    else if r.rcd.jc = 0 then do
      modTask (fun t => { t with joining := false })
      acquireM .gang
      pure .next
    else suspendM live.toNat .join)

/-- A suspended record whose cycle has come (R170). -/
def State.wakeDue (s : State) (x : Susp) : Bool :=
  match x.why with
  | .until c => decide ((c + 1023) / 1024 * 1024 ≤ s.ccy.toNat)
  | _ => false

def execSuspend (p : Pred) (a : WReg) (live : BitVec 10) : State → Host.Outcome State Fault Refusal :=
  perform (whole p do
    let r ← runM
    let c ← rdW a
    if 688 < live.toNat then illegal
    else do
      let f ← suspendM live.toNat (.until c.toNat)
      modState (fun s => if c.toNat ≤ s.ccy.toNat then s.wake r.job r.taskAddr false else s)
      pure f)

def execSuspendWake (job addr : Nat) (s : State) : Host.Outcome State Fault Refusal :=
  match s.job? job with
  | none => .next s
  | some j =>
    if j.susp.any (fun x => decide (x.addr = addr) && s.wakeDue x) && !j.blocked.contains addr then .next (s.wake job addr false)
    else .next s

/-! launch and gdone (R171, R172). -/

/-- The 64 bytes of a task's command (R40). -/
def taskCmd (graph : Bool) (obj tag stat : Word) : List Byte :=
  leBytes 8 obj.toNat ++ (leBytes 8 (if graph then 2 else 1) ++ (leBytes 8 tag.toNat ++ (leBytes 8 stat.toNat ++ leBytes 32 0)))

/-- The staging place of a launch (log 28): set 0 of the polder's lowest slice. -/
def State.launchSlice (s : State) (jid : Nat) : Nat :=
  match (s.job? jid).bind (fun j => s.polder? j.polder) with
  | some p => p.slices.headD 0
  | none => 0

/-- launch: the command staged. The task's earlier stores are released, since the dispatcher's read of the descriptor, the footprint
table and the template sees those to PRIV (R171). -/
def execLaunch (p : Pred) (graph : Bool) (a b c : WReg) (stream : Fin 16) : State → Host.Outcome State Fault Refusal :=
  perform (whole p do
    noBorder
    let obj ← rdW a
    let stat ← rdW b
    let tag ← rdW c
    if stat.toNat % 32 ≠ 0 then trap 0x08 stat
    else do
      let r ← runM
      let s ← get
      stageM (.launch stream.val (taskCmd graph obj tag stat)) 0 (s.launchSlice r.job) 0
      releaseM .gang
      pure .next)

/-- gdone: the commit point of tcommit without its waits (R172): what the task has staged so far is sealed; barge requests that are
open commit at a later point. For a graph node it carries the completion event of R52 once its entries have committed. -/
def execGdone (p : Pred) : State → Host.Outcome State Fault Refusal :=
  perform (whole p do
    noBorder
    sealMine
    modGang (fun g =>
      if g.node.isSome && !g.nodeSent && g.nodeBatch.isNone then { g with nodeBatch := some g.nbatch } else g)
    pure .next)

end Sys2Proof.Machine
end

