-- ==== Sys2Proof/Machine/Barge.lean ====
section
/-! DEFINITION. Barge.lean: barge requests: bgreq, bgtry, bgsleep, bgwm, the engines' acceptance and unit writes, a missed promise
(R273 to R286). -/
namespace Sys2Proof.Machine

/-! The request (R273, R280). -/

/-- A request's four words, taken apart. -/
structure BReq where
  op : Nat
  ord : Bool
  mcast : Bool
  resv : Nat
  len : Nat
  rowlen : Nat
  src : Nat
  dst : Nat
  w3 : Nat
  deriving DecidableEq, Repr

def BReq.of (w0 w1 w2 w3 : Word) : BReq where
  op := (w0.extractLsb' 0 4).toNat
  ord := w0.getLsbD 4
  mcast := w0.getLsbD 5
  resv := (w0.extractLsb' 6 10).toNat
  len := (w0.extractLsb' 16 24).toNat
  rowlen := (w0.extractLsb' 40 24).toNat
  src := w1.toNat
  dst := w2.toNat
  w3 := w3.toNat

def BReq.nrecv (q : BReq) : Nat := q.w3 % 1024
def BReq.rbase (q : BReq) : Nat := q.w3 / 1024 % 1024
def BReq.ostr (q : BReq) : Nat := q.w3 / 2 ^ 20 % 2 ^ 20
def BReq.clen (q : BReq) : Nat := if q.mcast then q.w3 / 2 ^ 40 else 0

/-- Check 1 of R276. -/
def BReq.ok (q : BReq) (g : Option Gang) : Bool :=
  decide (q.resv = 0) && decide (32 ≤ q.len) && decide (q.len ≤ 16777184) && decide (q.len % 32 = 0)
    && (if q.op = 1 then
          decide (q.rowlen = 0) &&
          (if q.mcast then
            g.any (fun g => g.desc.cls == 2 && decide (q.rbase + q.nrecv ≤ g.desc.ntask)) && decide (1 ≤ q.nrecv)
              && decide (q.nrecv ≤ 576) && decide (q.rbase ≤ 575) && decide (q.clen % 32 = 0)
              && decide (q.clen + q.len ≤ 16777184) && inWindow q.dst
          else decide (q.w3 = 0))
        else
          decide (q.op = 2) && !q.mcast && decide (q.rowlen ≠ 0) && decide (q.rowlen % 32 = 0) && decide (q.len % q.rowlen = 0))

/-- Check 2: the first of SRC, DST and SSTR that is not a multiple of 32. -/
def BReq.misaligned (q : BReq) : Option Nat :=
  ([q.src, q.dst] ++ (if q.op = 2 then [q.w3] else [])).find? (fun a => decide (a % 32 ≠ 0))

/-- Ranges read and, per destination, written: base and length (R274, R280). -/
def BReq.reads (q : BReq) : List (Nat × Nat) :=
  if q.mcast then (q.src, q.clen) :: (List.range q.nrecv).map (fun i => (q.src + q.clen + 32 * q.ostr * i, q.len))
  else if q.op = 2 then (List.range (q.len / q.rowlen)).map (fun r => (q.src + r * q.w3, q.rowlen))
  else [(q.src, q.len)]

def BReq.writeLen (q : BReq) : Nat := q.clen + q.len

/-- Tiles that receive: those of the roots named, or the executing tile (R280). -/
def BReq.receivers (q : BReq) (tile : Nat) (g : Option Gang) : List Nat :=
  if q.mcast then (upFrom 1 q.rbase q.nrecv).map (fun i => ((g.map (·.placed)).getD []).getD i tile) else [tile]

/-- The cause a byte fails with under checks 1 to 3 of R243, the control range left to check 4. -/
def bargeFault (k : Kind) (size : Nat) (p : Place) : Option Nat :=
  match p with
  | .window o => if size ≤ o then some 0x06 else none
  | p => placeFault k size {} p

def bargeFaults (k : Kind) (size : Nat) (foot : List Foot) (consts : List Region) (r : Nat × Nat) : List (Nat × Nat) :=
  (upFrom 1 r.1 r.2).filterMap (fun a => (bargeFault k size (placeOf foot consts a)).map (fun c => (a, c)))

/-- Check 4: the lowest written byte in the control range of a receiving tile. -/
def ctlHit (dst n : Nat) (t : Tile) : Option Nat :=
  let lo := Config.spBase + t.base + 0x1480
  let hi := Config.spBase + t.base + 0x1800
  if dst < hi ∧ lo < dst + n then some (max dst lo) else none

/-! The tile's L1 at bgreq (R279). -/

/-- Lines of the tile's L1 in the translation of a range, what of it lies in the scratchpad window apart: cleaned, and dropped when the
range is written. -/
def State.l1Range (s : State) (tile jid : Nat) (drop : Bool) (r : Nat × Nat) : State :=
  if inWindow r.1 then s
  else
    (pieces r.1 (if r.1 < Config.spBase then min r.2 (Config.spBase - r.1) else r.2)).foldl (fun s p =>
      match s.devKey jid (s.siteOf tile) p.1 accLoad .read with
      | .error _ => s
      | .ok k => ((s.tile tile).l1.filter (fun l => decide (k ≤ 32 * l.key) && decide (32 * l.key < k + p.2))).foldl
          (fun s l => s.cleanLine tile l drop) s) s

/-! bgreq and bgtry (R275, R276). -/

/-- The outstanding request of a tag of a task. -/
def State.tagged (s : State) (r : Run) (tag : Nat) : Option Barge :=
  s.barges.find? (fun (b : Barge) => decide (b.job = r.job) && decide (b.task = r.taskAddr) && decide (b.tag = tag))

/-- A failed request observed: its tag is no longer outstanding (R284). -/
def State.dropBarge (s : State) (id : Nat) : State := s.dropBarges (fun b => decide (b.id = id))

/-- The checks of R276 at issue. -/
def checkReq (q : BReq) : M Unit := do
  let r ← runM
  let g ← gangM
  let s ← get
  if !q.ok g then illegal
  else match q.misaligned with
    | some v => trap 0x08 (word v)
    | none =>
      let foot := s.footOf r
      let consts := s.constsOf r
      let size := s.spSize s.cur
      match lowestFault (q.reads.flatMap (bargeFaults .load size foot consts) ++
          bargeFaults .store size foot consts (q.dst, q.writeLen)) with
      | some (a, c) => trap c (word a)
      | none =>
        match lowestFault ((q.receivers s.cur g).filterMap (fun n =>
            (ctlHit q.dst q.writeLen (s.tile n)).map (fun a => (a, 0)))) with
        | some (a, _) => trap 0x06 (word a)
        | none => pure ()

/-- The request entered into the FIFO (R275, R279). Its staged units take places in the task's order here (R281). -/
def enterReq (q : BReq) (tag : Nat) (d : WReg) : M Unit := do
  let r ← runM
  let g ← gangM
  q.reads.forM (fun x => modState (fun s => s.l1Range s.cur r.job false x))
  modState (fun s => s.l1Range s.cur r.job true (q.dst, q.writeLen))
  let s ← get
  let b : Barge := {
    id := s.nbarge, job := r.job, gang := r.gid, key := r.rcd.key, task := r.taskAddr, tile := s.cur, tag := tag
    ord := (g.map (·.ord)).getD 0, step := (g.map (·.step)).getD 0, ordered := q.ord, mcast := q.mcast
    len := q.len, rowlen := q.rowlen, src := q.src, dst := q.dst, sstr := if q.op = 2 then q.w3 else 0
    clen := q.clen, ostr := q.ostr
    chans := (q.receivers s.cur g).map (fun n => (⟨n, q.dst, q.writeLen, q.dst⟩ : Channel)), dreg := d }
  modState (fun s => { s with barges := s.barges ++ [b], nbarge := s.nbarge + 1 })
  modTile (fun t => { t with fifo := t.fifo ++ [b.id] })
  modGang (fun g => { g with ord := g.ord + q.writeLen / 32 })

/-- The request of w(A) to w(A + 3). -/
def readReq (a : WReg) : M BReq := do
  let w0 ← rdW a
  let w1 ← rdW (a + 1)
  let w2 ← rdW (a + 2)
  let w3 ← rdW (a + 3)
  pure (BReq.of w0 w1 w2 w3)

def fifoFull : M Bool := do pure (decide (8 ≤ (← tileM).fifo.length))

/-- A failed tag observed raises BARGE_FAULT (R284). -/
def observe (b : Barge) (va : Nat) : M Unit := do
  modState (fun s => s.dropBarge b.id)
  failKeep (.trap 0x09 (word va))

def execBgreq (p : Pred) (d a : WReg) (tag : BitVec 4) : State → Host.Outcome State Fault Refusal :=
  perform (whole p do
    let r ← runM
    match (← get).tagged r tag.toNat with
    | some b =>
      match b.failed with
      | some va => do
        observe b va
        pure .next
      | none => stall .barge
    | none => do
      let q ← readReq a
      checkReq q
      if ← fifoFull then stall .fifo
      else do
        enterReq q tag.toNat d
        pure .next)

def execBgtry (p : Pred) (d a : WReg) (tag : BitVec 4) : State → Host.Outcome State Fault Refusal :=
  perform (whole p do
    let r ← runM
    if ((← get).tagged r tag.toNat).isSome then do
      wrW d (word (2 ^ 64 - 1))
      pure .next
    else do
      let q ← readReq a
      checkReq q
      if ← fifoFull then do
        wrW d (word (2 ^ 64 - 1))
        pure .next
      else do
        enterReq q tag.toNat d
        pure .next)

/-! bgsleep and bgwm (R282 to R284). -/

/-- A frozen request raises BARGE_FAULT once: the tag stays outstanding. -/
def observeFrozen (b : Barge) (va : Nat) : M Unit := do
  modState (fun s => { s with barges := s.barges.map (fun (x : Barge) => if x.id = b.id then { x with observed := true } else x) })
  failKeep (.trap 0x09 (word va))

/-- The failed or frozen state of a tag, observed. -/
def seeFault (b : Barge) : M Unit :=
  match b.failed, b.frozen with
  | some va, _ => observe b va
  | none, some va => if b.observed then pure () else observeFrozen b va
  | none, none => pure ()

/-- The promise of a request has passed. -/
def State.late (s : State) (b : Barge) : Bool := b.accepted && decide (b.promise.toNat ≤ s.ccy.toNat)

def execBgsleep (p : Pred) (noprom : Bool) (tag : BitVec 4) : State → Host.Outcome State Fault Refusal :=
  perform (whole p do
    let r ← runM
    match (← get).tagged r tag.toNat with
    | none => pure .next
    | some b => do
      seeFault b
      if !noprom && (← get).late b then trap 0x0A (tag.setWidth 64)
      else stall (.sleep tag.toNat))

def execBgwm (p : Pred) (d : WReg) (recv : BitVec 10) (tag : BitVec 4) : State → Host.Outcome State Fault Refusal :=
  perform (whole p do
    let r ← runM
    match (← get).tagged r tag.toNat with
    | none => do
      wrW d 0
      pure .next
    | some b =>
      match b.chans[recv.toNat]? with
      | none => illegal
      | some c => do
        seeFault b
        wrW d (word c.wm)
        pure .next)

/-- The waiting bgsleep of a tile whose promise has passed traps. -/
def execPromiseMissed (tile : Nat) (s : State) : Host.Outcome State Fault Refusal :=
  match (s.tile tile).run with
  | none => .next s
  | some r =>
    if r.stall.any (fun x => match x.kind with | .sleep _ => true | _ => false) then
      match s.fetchCheck tile r r.pc r.entry with
      | .ok (_, w, _) =>
        (match decode w with
        | some (.bgsleep _ false tag) =>
          (match s.tagged r tag.toNat with
          | some b => if s.late b && b.failed.isNone && (b.frozen.isNone || b.observed) then
              .next (s.takeTrap tile r 0x0A (tag.setWidth 64)) else .next s
          | none => .next s)
        | _ => .next s)
      | .error _ => .next s
    else .next s

/-! The engines (R275, R277, R278, R281, R284). -/

def execBargeAccept (tile : Nat) (s : State) : Host.Outcome State Fault Refusal :=
  match (s.tile tile).fifo with
  | [] => .next s
  | id :: _ => .next (s.acceptBarge id)

/-- A range of a request as places, each the tile of a scratchpad range, base, length: below the window, in it, above it (R242). -/
def placeKeys (tile a n : Nat) : List (Option Nat × Nat × Nat) :=
  let part (k : Option Nat) (lo hi : Nat) : Option Nat × Nat × Nat := (k, max a lo, min (a + n) hi - max a lo)
  [part none 0 Config.spBase, part (some tile) Config.spBase Config.spEnd, part none Config.spEnd (a + n)].filter (fun x => decide (x.2.2 ≠ 0))

def Barge.readRanges (b : Barge) : List (Option Nat × Nat × Nat) :=
  (if b.mcast then
    (b.src, b.clen) :: (List.range b.chans.length).map (fun i => (b.src + b.clen + 32 * b.ostr * i, b.len))
  else if b.rowlen ≠ 0 then (List.range (b.len / b.rowlen)).map (fun r => (b.src + r * b.sstr, b.rowlen))
  else [(b.src, b.len)]).flatMap (fun x => placeKeys b.tile x.1 x.2)

def Barge.writeRanges (b : Barge) : List (Option Nat × Nat × Nat) := b.chans.flatMap (fun c => placeKeys c.tile c.dst c.len)

def rangesMeet (a b : List (Option Nat × Nat × Nat)) : Bool :=
  a.any (fun x => b.any (fun y => x.1 == y.1 && decide (x.2.1 < y.2.1 + y.2.2) && decide (y.2.1 < x.2.1 + x.2.2)))

/-- Earlier requests of the task that hold a request back (R277). -/
def State.bargeHeld (s : State) (b : Barge) : Bool :=
  s.barges.any (fun (e : Barge) => decide (e.id < b.id) && decide (e.job = b.job) && decide (e.task = b.task) && e.failed.isNone &&
    (b.ordered || rangesMeet e.writeRanges (b.readRanges ++ b.writeRanges) || rangesMeet e.readRanges b.writeRanges))

/-- The next unit of a request: channel number and offset in it. -/
def Barge.nextUnit (b : Barge) : Option (Nat × Channel × Nat) :=
  (b.chans.zipIdx.find? (fun e => decide (e.1.wm < e.1.dst + e.1.len))).map (fun e => (e.2, e.1, e.1.wm - e.1.dst))

/-- The source address of a unit. -/
def Barge.srcAt (b : Barge) (i o : Nat) : Nat :=
  if b.mcast then (if o < b.clen then b.src + o else b.src + b.clen + 32 * b.ostr * i + (o - b.clen))
  else if b.rowlen ≠ 0 then b.src + o / b.rowlen * b.sstr + o % b.rowlen
  else b.src + o

/-- A unit waits on a channel of an earlier request of the gang (R278). -/
def State.unitHeld (s : State) (b : Barge) (tile a : Nat) : Bool :=
  s.barges.any (fun (e : Barge) => decide (e.id < b.id) && decide (e.job = b.job) && decide (e.gang = b.gang) && e.failed.isNone
    && e.chans.any (fun c => c.blocks tile a 32))

/-- What an engine's access to a unit comes to. -/
inductive Unit32 where
  | ok (s : State) (bs : List Byte)
  | wait
  | fault (f : XFault)
  | poison
  | exhausted

/-- A request's view of the regions of its task. -/
def State.bargeFoot (s : State) (b : Barge) (a : Nat) : Option FKind :=
  if b.gang = noGang then none
  else match s.gang? b.job b.gang with
    | some g => findFoot a g.foot
    | none => none

/-- A unit of the source as it stands, read as a plain load of the task (R286). -/
def State.loadUnit (s : State) (b : Barge) (a : Nat) : Unit32 :=
  if inWindow a then
    let t := s.tile b.tile
    if t.spBad (a - Config.spBase) 32 then .poison else .ok s (t.taskBytes (a - Config.spBase) 32)
  else
    match s.bargeFoot b a, s.job? b.job, s.gang? b.job b.gang with
    | some .inout, some j, some g =>
      (match s.walk b.job j (s.siteOf b.tile) a accBargeRd .read with
      | .error f => .fault f
      | .ok x =>
        let s := s.walked b.job (s.siteOf b.tile) a
        let (s, bs, bad) := s.view g (s.stageKey b.job x a) 32 (x.key (s.siteOf b.tile) a)
        if bad then .poison else .ok s bs)
    | _, _, _ =>
      match s.devKey b.job (s.siteOf b.tile) a accBargeRd .read with
      | .error f => .fault f
      | .ok k => if s.memBad k 32 then .poison else let (s, bs) := (s.walked b.job (s.siteOf b.tile) a).homeRead k 32; .ok s bs

/-- The unit a request reads: as it was at the bgreq, though the request has written over it since (R277, R279). -/
def State.readUnit (s : State) (b : Barge) (a : Nat) : Unit32 :=
  match b.kept.find? (fun e => decide (e.1 = a)) with
  | some e => .ok s e.2
  | none => s.loadUnit b a

/-- A unit staged for the requesting task as an entry of its own, at its place in the order (R281). -/
def State.stageUnit (s : State) (b : Barge) (j : Job) (g : Gang) (x : Xlat) (a ord : Nat) (bs : List Byte) : Unit32 :=
  let (slice, set) := s.stagePlace b.job x a
  match s.stageNew j g b.key ord (.store (s.stageKey b.job x a) (BitVec.allOnes 32) (BitVec.ofNat 256 (leVal bs))) a slice set (s.siteOf b.tile) [x] with
  | .ok g' => .ok (s.setGang b.job b.gang g') []
  | .full => .wait
  | .exhausted => .exhausted

def State.writeUnit (s : State) (b : Barge) (c : Channel) (a ord : Nat) (bs : List Byte) : Unit32 :=
  if inWindow a then .ok (s.setTile c.tile ((s.tile c.tile).storeSp (a - Config.spBase) bs)) []
  else
    match s.job? b.job with
    | none => .ok s []
    | some j =>
      if Config.jcbBase ≤ a then
        let o := a - Config.jcbBase
        .ok (((s.noteJcb b.job b.gang).homeWrite [] (j.jcbpa + o) bs).tookQ b.job o bs.length) []
      else
        match s.walk b.job j (s.siteOf b.tile) a accBargeWr .write with
        | .error f => .fault f
        | .ok x =>
          let s := s.walked b.job (s.siteOf b.tile) a
          match s.bargeFoot b a, s.gang? b.job b.gang with
          | some .out, some g | some .inout, some g => s.stageUnit b j g x a ord bs
          | _, _ => .ok ((s.notePage b.job b.gang (x.key (s.siteOf b.tile) a)).homeWrite (s.sitesOfTile b.tile) (x.key (s.siteOf b.tile) a) bs) []

/-- A request's record in the engines changed. -/
def State.mapBarge (s : State) (id : Nat) (f : Barge → Barge) : State :=
  { s with barges := s.barges.map (fun (x : Barge) => if x.id = id then f x else x) }

/-- A request with the watermark of one channel raised by a unit. -/
def Barge.raise (b : Barge) (i : Nat) : Barge :=
  { b with chans := b.chans.modify i (fun (c : Channel) => { c with wm := c.wm + 32 }), parked := false }

/-- Bytes an engine wrote, counted for the request's job: on its tile, or at once when the tile is the job's no longer (R286,
R351). -/
def State.countBarge (s : State) (b : Barge) (n : Nat) : State :=
  if ownedBy (s.tile b.tile).owner b.job then s.countOn b.tile 34 n
  else match s.job? b.job with
    | some j => s.addCounter j 34 n
    | none => s

/-- The watermark of a channel raised by one unit, and the request done with when every channel is full (R277, R278). Its task may learn
of the unit from then on, wherever it runs: one of a die-hashed page is applied on every copy (R286, R289, log 104). -/
def State.advance (s : State) (b : Barge) (i : Nat) : State :=
  let s := s.dhDrain.countBarge b 32
  if (b.raise i).chans.all (fun c => decide (c.dst + c.len ≤ c.wm)) then s.dropBarge b.id
  else s.mapBarge b.id (fun x => x.raise i)

/-- A request failed: its channels are released, its tag waits to be observed (R284). -/
def State.failBarge (s : State) (id va : Nat) : State := s.mapBarge id (fun x => { x with failed := some va, frozen := none })

/-- An error an engine has met, laid to the gang of its request, or to the upcall (R260, R284, R410). -/
def State.bargeError (s : State) (b : Barge) : State :=
  let f : Failure := { detail := 3, code := 0x0F, task := b.task, tile := b.tile, seq := s.seqOf b.job b.task }
  if b.gang = noGang then s.endUpcall b.job b.task f.seq f else s.gangError b.job b.gang f

/-- A frozen request (R284); a walk that consumed poison is an error of the gang as well (R260). -/
def State.freeze (s : State) (b : Barge) (f : XFault) : State :=
  let s := s.mapBarge b.id (fun x => { x with frozen := some f.va, observed := false, seen := [] })
  let s := (s.postXlate f b.job b.gang 0 b.tile 0 (.barge b.id)).1
  if f.poison then s.bargeError b else s

/-- An engine's poison: the request fails, and the gang, or the upcall, consumes the error (R284, R260). -/
def State.poisonBarge (s : State) (b : Barge) (va : Nat) : State := (s.failBarge b.id va).bargeError b

/-- The engine waits for staging: until the gang is its stream's head (R281, R299). -/
def State.parkedNow (s : State) (b : Barge) : Bool :=
  b.parked && (match s.job? b.job, s.gang? b.job b.gang with
    | some j, some g => !g.head j
    | _, _ => false)

/-- A request writes its own source at `a`, a unit it has still to read: the bytes are kept (R279). -/
def Barge.overwrites (b : Barge) (i : Nat) (c : Channel) (a : Nat) : Bool :=
  (!inWindow a || decide (c.tile = b.tile)) && (b.raise i).unread.any (fun x => decide (max x.1 a < min (x.1 + x.2) (a + 32)))

/-- What a read of an engine that did not succeed comes to. -/
def State.readFailed (s : State) (b : Barge) (a : Nat) : Unit32 → Option State
  | .fault f => some (s.freeze b f)
  | .poison => some (s.poisonBarge b a)
  | _ => none

/-- A unit written. -/
def State.putUnit (s : State) (b : Barge) (i : Nat) (c : Channel) (dst o : Nat) (bs : List Byte) : Option State :=
  match s.writeUnit b c dst (b.ord + o / 32) bs with
  | .ok s _ => some (s.advance b i)
  | .fault f => some (s.freeze b f)
  | .poison => some (s.poisonBarge b dst)
  | .wait => if b.parked then none else some (s.mapBarge b.id (fun x => { x with parked := true }))
  | .exhausted => some (s.failGang b.job b.gang { detail := 6, task := b.task, tile := b.tile, seq := s.seqOf b.job b.task })

/-- The next unit of a request read and written; none while it waits. -/
def State.bargeUnit (s : State) (b : Barge) : Option State :=
  if !b.accepted || b.failed.isSome || b.frozen.isSome || s.parkedNow b || s.bargeHeld b then none
  else
    match b.nextUnit with
    | none => none
    | some (i, c, o) =>
      let src := b.srcAt i o
      let dst := c.dst + o
      if s.unitHeld b b.tile src || s.unitHeld b c.tile dst then none
      else
        match s.readUnit b src with
        | .ok s bs =>
          if b.overwrites i c dst && b.kept.all (fun e => decide (e.1 ≠ dst)) then
            (match s.loadUnit b dst with
            | .ok s old => (s.mapBarge b.id (fun x => { x with kept := x.kept ++ [(dst, old)] })).putUnit b i c dst o bs
            | x => s.readFailed b dst x)
          else s.putUnit b i c dst o bs
        | x => s.readFailed b src x

def execBargeUnitWrite (req : Nat) (s : State) : Host.Outcome State Fault Refusal :=
  match s.barges.find? (fun (b : Barge) => decide (b.id = req)) with
  | none => .next s
  | some b => .next ((s.bargeUnit b).getD s)

end Sys2Proof.Machine
end

