-- ==== Sys2Proof/Machine/Matrix.lean ====
section
/-! DEFINITION. Matrix.lean: the matrix instructions (R222 to R231), capabilities, remote commands and swaps (R232 to R237), and the
events of the unit. An operation is carried out whole when it is issued or accepted (R222); its place in the command queue
stays until the unit completes it (R223). -/
namespace Sys2Proof.Machine

/-! Local operations. -/

/-- Scratchpad ranges of an operation wait on channels, and its stores on requests that still read there (R222, R279). -/
def copyWaits (dest : Bool) (rs : List (Nat × Nat)) : M Unit := rs.forM (fun r => do
  chanWait (Config.spBase + r.1) r.2
  if dest then readWait (Config.spBase + r.1) r.2 else pure ())

/-- How a failing issue check ends the instruction (R224, R226). -/
def matFail {α : Type} : MatBad → M α
  | .illegal => illegal
  | .misaligned v => trap 0x08 v
  | .perm off => trap 0x06 (word off)
  | .poison => fail .ue

/-- A local operation: it waits for room in the queue, is checked, waits for its scratchpad ranges, and is carried out, unless what
it reads, or its entry in the queue, has an uncorrectable error: then it commits nothing (R239). -/
def matM (ranges : Tile → Bool × List (Nat × Nat)) (op : Tile → MatDone) : M Flow := do
  prepM
  let t ← tileM
  if 6 ≤ t.mq.length then stall .matrixQueue
  else do
    let (dest, rs) := ranges t
    match op t with
    | .error .poison => do
      copyWaits dest rs
      fail .ue
    | .error e => matFail e
    | .ok (t', f) => do
      copyWaits dest rs
      if t.mqBad then (fun _ => .error { why := .ue, mark := fun s => s.setTile s.cur { s.tile s.cur with mqBad := false } })
      else do
      modTile (fun _ => { t' with mq := t'.mq ++ [⟨none⟩] })
      stickM f
      pure .next

def noRanges (_ : Tile) : Bool × List (Nat × Nat) := (false, [])

def execMcfg (p : Pred) (ty : Ty) (d : TReg) (rows : BitVec 8) (cols : BitVec 10) : State → Host.Outcome State Fault Refusal :=
  perform (whole p (matM noRanges (fun t => .ok (t.setTcfg d (mcfgVal ty rows cols), 0))))

def execTld (p : Pred) (d : TReg) (a : WReg) (b : OpB) : State → Host.Outcome State Fault Refusal :=
  perform (whole p do
    let o ← rdW a
    let st ← rdB b
    let size := (← get).spSize (← get).cur
    matM (fun t => (false, copyRanges (t.conf d) false o.toNat st.toNat)) (fun t => tldOp size t d o st (farStride b)))

def execTldt (p : Pred) (d : TReg) (a : WReg) (b : OpB) : State → Host.Outcome State Fault Refusal :=
  perform (whole p do
    let o ← rdW a
    let st ← rdB b
    let size := (← get).spSize (← get).cur
    matM (fun t => (false, copyRanges (t.conf d) true o.toNat st.toNat)) (fun t => tldtOp size t d o st (farStride b)))

def execTst (p : Pred) (d : TReg) (a : WReg) (b : OpB) : State → Host.Outcome State Fault Refusal :=
  perform (whole p do
    let o ← rdW a
    let st ← rdB b
    let size := (← get).spSize (← get).cur
    matM (fun t => (true, copyRanges (t.conf d) false o.toNat st.toNat)) (fun t => tstOp size t d o st (farStride b)))

def execTzero (p : Pred) (d : TReg) : State → Host.Outcome State Fault Refusal :=
  perform (whole p (matM noRanges (fun t => .ok (tzeroOp t d, 0))))

/-- The register of random words of SR (R183), popped when it is bound (R142). -/
def srWords (m : Rnd) : M VWord :=
  match m with
  | .sr c => do
    streamsBefore [c] none
    rdV c
  | _ => pure 0

/-- A multiply-accumulate, with the count of R351 kept for REPMAC; supervisor code counts nothing. -/
def macM (scaled : Bool) (m : Rnd) (sat : Bool) (row0 col0 : BitVec 7) (d : MReg) (a b : TReg) : M Flow := do
  let sr ← srWords m
  let n := macsOf (← tileM) a b
  let counts := !(← runM).sup
  let f ← matM noRanges (fun t => mmacOp counts t scaled m sat sr row0.toNat col0.toNat d a b)
  if counts then do
    modGang (fun g => { g with macs := g.macs + n })
    (if (← gangM).any (·.reexec) then meterM 42 n else pure ())
    pure f
  else pure f

def execMmac (p : Pred) (m : Rnd) (sat : Bool) (row0 col0 : BitVec 7) (d : MReg) (a b : TReg) :
    State → Host.Outcome State Fault Refusal :=
  perform (whole p (macM false m sat row0 col0 d a b))

def execMmacs (p : Pred) (m : Rnd) (sat : Bool) (row0 col0 : BitVec 7) (d : MReg) (a b : TReg) :
    State → Host.Outcome State Fault Refusal :=
  perform (whole p (macM true m sat row0 col0 d a b))

def execMscale (p : Pred) (m : Rnd) (sat : Bool) (row0 col0 : BitVec 7) (kb : BitVec 6) (d a : MReg) (b c : TReg) :
    State → Host.Outcome State Fault Refusal :=
  perform (whole p do
    let counts := !(← runM).sup
    matM noRanges (fun t => mscaleOp counts t m sat row0.toNat col0.toNat kb.toNat d a b c))

/-- Pattern of the 32 accumulator elements of a row and part (R231). -/
def Tile.accPart (t : Tile) (m : MReg) (row : BitVec 7) (part : BitVec 2) : VWord :=
  BitVec.ofNat 1024 (t.mat.readLE (accAt m row.toNat (32 * part.toNat)) 128)

def execMrd (p : Pred) (d : VReg) (a : MReg) (row : BitVec 7) (part : BitVec 2) : State → Host.Outcome State Fault Refusal :=
  perform (laned p 32 [] (some d) (fun w => do
    prepM
    let t ← tileM
    (if (List.range 32).any (fun j => w.getLsbD j && t.mat.spoilt (accAt a row.toNat (32 * part.toNat + j)) 4) then fail .ue else pure ())
    let new := t.accPart a row part
    modTile (fun t => t.setElems d 32 (fun j => w.getLsbD j) (vMerge 32 w (t.v d) (fun j => vElem 32 new j)))))

def execMwr (p : Pred) (d : MReg) (a : VReg) (row : BitVec 7) (part : BitVec 2) : State → Host.Outcome State Fault Refusal :=
  perform (laned p 32 [a] none (fun w => do
    prepM
    let new ← rdV a
    modTile (fun t =>
      let v := vMerge 32 w (t.accPart d row part) (fun j => vElem 32 new j)
      let at0 := accAt d row.toNat (32 * part.toNat)
      let u := t.putMat (8 + d.val) at0 (leBytes 128 v.toNat)
      { u with mat := ⟨u.mat.bytes, t.mat.bad.filter (fun k => !(decide (at0 ≤ 8 * k) && decide (8 * k + 8 ≤ at0 + 128)
        && w.getLsbD ((8 * k - at0) / 4) && w.getLsbD ((8 * k - at0) / 4 + 1)))⟩ })))

def execMclr (p : Pred) (d : MReg) : State → Host.Outcome State Fault Refusal :=
  perform (whole p (matM noRanges (fun t => .ok (mclrOp t d, 0))))

/-- The unit completes the operation at the head of its queue. -/
def execMatrixOpComplete (tile : Nat) (s : State) : Host.Outcome State Fault Refusal :=
  let t := s.tile tile
  .next (s.setTile tile { t with mq := t.mq.drop 1 })

/-! Capabilities (R232, R233). -/

def capTile (c : Word) : Nat := c.toNat % 1024
def capRights (c : Word) : BitVec 6 := c.extractLsb' 10 6
def capTenure (c : Word) : BitVec 32 := c.extractLsb' 16 32

/-- The capability of a tile. DESIGN CHOICE (log 135): IMM[5:4] other than zero stand in it as R233 puts them, and a unit accepts it. -/
def mkCap (epoch jid tile : Nat) (rights : BitVec 6) (tenure : BitVec 32) : Word :=
  Config.capTag epoch jid tile rights tenure ++ tenure ++ rights ++ BitVec.ofNat 10 tile

def execMcap (p : Pred) (d a : WReg) (rights : BitVec 6) : State → Host.Outcome State Fault Refusal :=
  perform (whole p do
    let t ← rdW a
    let r ← runM
    let s ← get
    wrW d (if t.toNat < Config.nTiles && (s.tile t.toNat).owner == Owner.job r.job then
        mkCap s.keyEpoch r.job t.toNat rights (s.tile t.toNat).tenure
      else 0)
    pure .next)

/-- A tile hosts a root of a gang. -/
def Gang.rootOn (g : Gang) (n : Nat) : Bool :=
  g.tasks.any (fun t => match t.root with
    | some i => g.placed[i]? == some n && t.owes.isNone
    | none => false)

/-- Reasons 1 to 4 of R234, for the right that is needed, by its bit. -/
def State.capReason (s : State) (r : Run) (c : Word) (right : Option Nat) : Option Nat :=
  let n := capTile c
  let t := s.tile n
  if c = 0 || c.extractLsb' 48 16 != Config.capTag s.keyEpoch r.job n (capRights c) (capTenure c) then some 1
  else if !(decide (n < Config.nTiles) && t.owner == Owner.job r.job && t.tenure == capTenure c && !t.dying
      && (t.cess.bind (·.wiping)).isNone) then some 2
  else if right.any (fun k => !(capRights c).getLsbD k) then some 3
  else match s.runGang r with
    | some g => if g.desc.cls = 2 && g.rootOn n then none else some 4
    | none => some 4

/-! Remote commands (R234, R235). -/

/-- The right a word needs, when it is a word a command may hold (R232). -/
def cmdRight : Instr → Option Nat
  | .tld _ _ _ _ | .tldt _ _ _ _ | .tzero _ _ | .mcfg _ _ _ _ _ => some 0
  | .mmac _ _ _ _ _ _ _ _ | .mmacs _ _ _ _ _ _ _ _ | .mscale _ _ _ _ _ _ _ _ _ _ | .mclr _ _ => some 1
  | .tst _ _ _ _ => some 2
  | _ => none

def isSr : Rnd → Bool
  | .sr _ => true
  | _ => false

/-- Fields a copy command must leave zero. -/
def zeroFields (a : WReg) : OpB → Bool
  | .reg b => a == 0 && b == 0
  | .imm _ => a == 0

/-- Predicate of an instruction is that of PN and PF zero. -/
def plainPred (p : Pred) : Bool := !p.neg && p.f == 0

/-- The fields of a word that R234 requires. -/
def cmdShape : Instr → Bool
  | .tld p _ a b | .tldt p _ a b | .tst p _ a b => plainPred p && zeroFields a b
  | .tzero p _ | .mcfg p _ _ _ _ | .mclr p _ => plainPred p
  | .mmac p m _ _ _ _ _ _ | .mmacs p m _ _ _ _ _ _ => plainPred p && !isSr m
  | .mscale p _ _ _ _ _ _ _ _ _ => plainPred p
  | _ => false

/-- The stride operand of a copy command. -/
def cmdStride (op1 : Word) : OpB → Word
  | .reg _ => op1
  | .imm v => v.signExtend 64

/-- A command carried out at its target: destination ranges and ranges for the waits, multiply-accumulates, the result. It counts
unless supervisor code sent it (R351). -/
def cmdOp (counts : Bool) (size : Nat) (t : Tile) (op0 op1 : Word) : Instr → (Bool × List (Nat × Nat)) × Nat × MatDone
  | .tld _ d _ b => ((false, copyRanges (t.conf d) false op0.toNat (cmdStride op1 b).toNat), 0, tldOp size t d op0 (cmdStride op1 b) (farStride b))
  | .tldt _ d _ b => ((false, copyRanges (t.conf d) true op0.toNat (cmdStride op1 b).toNat), 0, tldtOp size t d op0 (cmdStride op1 b) (farStride b))
  | .tst _ d _ b => ((true, copyRanges (t.conf d) false op0.toNat (cmdStride op1 b).toNat), 0, tstOp size t d op0 (cmdStride op1 b) (farStride b))
  | .tzero _ d => ((false, []), 0, .ok (tzeroOp t d, 0))
  | .mcfg _ ty d rows cols => ((false, []), 0, .ok (t.setTcfg d (mcfgVal ty rows cols), 0))
  | .mclr _ d => ((false, []), 0, .ok (mclrOp t d, 0))
  | .mmac _ m sat row0 col0 d a b => ((false, []), macsOf t a b, mmacOp counts t false m sat 0 row0.toNat col0.toNat d a b)
  | .mmacs _ m sat row0 col0 d a b => ((false, []), macsOf t a b, mmacOp counts t true m sat 0 row0.toNat col0.toNat d a b)
  | .mscale _ m sat row0 col0 kb d a b c => ((false, []), 0, mscaleOp counts t m sat row0.toNat col0.toNat kb.toNat d a b c)
  | _ => ((false, []), 0, .error .illegal)

/-- A target's queue is full. -/
def State.queueFull (s : State) (n : Nat) : Bool := decide (6 ≤ (s.tile n).mq.length)

/-- v(k) is bound to a generator (R141). -/
def Tile.bound (t : Tile) (k : VReg) : Bool := decide (28 ≤ k.val) && t.sgBound (k.val - 28)

/-- mcmd once it has been sent: its verdict taken, its predicate and operands read no more (R235). -/
def mcmdEnd (b : VReg) (r : Run) : M Flow :=
  match r.verdict with
  | some 0 => do
    (match r.sent with
    | some e => modTile (fun t => (t.setV b e).sgStep (b.val - 28))
    | none => pure ())
    pure .next
  | some k => trap 0x0B (word (k * 65536 + r.peer))
  | none => stall .verdict

/-- mcmd. A stream that v(B) is bound to gives its element at the send; it is popped, with that element, once the command is accepted
(R142, R235). -/
def execMcmd (p : Pred) (a : WReg) (b : VReg) : State → Host.Outcome State Fault Refusal :=
  perform (do
    let r ← runM
    let t ← tileM
    if r.verdict.isSome || t.msg.isSome then mcmdEnd b r
    else whole p do
      let cap ← rdW a
      if (← get).queueFull (capTile cap) then stall .matrixQueue
      else do
        let s ← get
        streamsBefore [b] none
        let v ← rdV b
        set s
        modTile (fun t => { t with
          run := t.run.map (fun r => { r with
            sent := if t.bound b then some v else none
            begun := some (.mcmd p a b)
            peer := capTile cap })
          msg := some {
            cap := cap, w := v.setWidth 96
            op0 := v.extractLsb' 128 64
            op1 := v.extractLsb' 192 64
            bad := decide (v.extractLsb' 96 32 ≠ (0 : BitVec 32)) } })
        failKeep (.stall .verdict))

/-- The verdict on a sender's tile. -/
def State.verdict (s : State) (n k : Nat) : State :=
  let t := s.tile n
  s.setTile n { t with msg := none, run := t.run.map (fun r => { r with verdict := some k }) }

/-- Accesses of an accepted command wait on a channel of its gang at the target, its stores on requests of the target's tasks that
still read there (R222, R235, R279). -/
def State.cmdHeld (s : State) (r : Run) (n : Nat) (c : Bool × List (Nat × Nat)) : Bool :=
  c.2.any (fun x => s.barges.any (fun (b : Barge) => decide (b.job = r.job) && b.failed.isNone
    && ((decide (b.gang = r.gid) && b.chans.any (fun k => k.blocks n (Config.spBase + x.1) x.2))
      || (c.1 && decide (b.tile = n) && b.readsPast (Config.spBase + x.1) x.2))))

/-- The message of a sending tile arrives at its target (R234, R235). DESIGN CHOICE (logs 134, 135): it acts on the matrix state that
is on the tile, not on one set aside for a root that waits there; a word that R234 does not list needs no right, and is rejected
with reason 5. -/
def execMcmdArrival (tile : Nat) (s : State) : Host.Outcome State Fault Refusal :=
  let snd := s.tile tile
  match snd.msg, snd.run with
  | some m, some r =>
    let n := capTile m.cap
    let i := decode m.w
    match s.capReason r m.cap (i.bind cmdRight) with
    | some k => .next (s.verdict tile k)
    | none =>
      match i with
      | none => .next (s.verdict tile 5)
      | some i =>
        if m.bad || (cmdRight i).isNone || !cmdShape i then .next (s.verdict tile 5)
        else if s.queueFull n then .next s
        else
          let t := s.tile n
          let c := cmdOp (!r.sup) (s.spSize n) t m.op0 m.op1 i
          match c.2.2 with
          | .error .poison =>
            if s.cmdHeld r n c.1 then .next s
            else .next ((s.verdict tile 0).gangError r.job r.gid { detail := 3, code := 0x0F, tile := n })
          | .error _ => .next (s.verdict tile 6)
          | .ok (t', f) =>
            if s.cmdHeld r n c.1 then .next s
            else if t.mqBad then
              .next (((s.setTile n { t with mqBad := false }).verdict tile 0).gangError r.job r.gid { detail := 3, code := 0x0F, tile := n })
            else
              let s := s.setTile n ({ t' with mq := t'.mq ++ [MatOp.mk (some r.taskAddr)] }.stick f)
              let s := match (if r.sup then none else s.runGang r) with
                | some g =>
                  let s := s.setGang r.job r.gid { g with macs := g.macs + c.2.1 }
                  if g.reexec then s.countOn n 42 c.2.1 else s
                | none => s
              .next (s.verdict tile 0)
  | _, _ => .next s

/-! Waiting for operations (R236). -/

def execMwait (p : Pred) (mode : BitVec 2) : State → Host.Outcome State Fault Refusal :=
  perform (whole p do
    let r ← runM
    if mode = 1 then
      (if (← tileM).mq.any (fun o => o.sender.isNone) then stall .matrixWait else pure .next)
    else if mode = 2 then
      (if (← get).commandOpen r then stall .matrixWait else pure .next)
    else pure .next)

/-! Mirrored swaps (R237). -/

/-- The lowest offset of the ranges past the scratchpad, or of the receive range in the control block. -/
def swapPerm (size : Nat) (t : Tile) (snd rcv len : Nat) : Option Nat :=
  match lowestBad size t false [(snd, len)], lowestBad size t true [(rcv, len)] with
  | some a, some b => some (min a b)
  | some a, none => some a
  | none, x => x

/-- Two swaps carried out on two tiles, or on one with itself. -/
def State.exchange (s : State) (a b : Nat) (x y : MSwap) : State :=
  let fromA := (s.tile a).taskBytes x.send x.len
  let fromB := (s.tile b).taskBytes y.send y.len
  let s := s.setTile a ((s.tile a).storeSp x.recv fromB)
  s.setTile b ((s.tile b).storeSp y.recv fromA)

/-- mswap once it has been issued: it waits for its partner, then retires or raises reason 6; its predicate and operands are read no
more (R237). -/
def mswapEnd (r : Run) : M Flow :=
  match r.swapped with
  | some true => pure .next
  | some false => trap 0x0B (word (6 * 65536 + r.peer))
  | none => stall .swap

def execMswap (p : Pred) (a b c : WReg) (len : BitVec 17) : State → Host.Outcome State Fault Refusal :=
  perform (do
    let r ← runM
    if r.swapped.isSome || (← tileM).swap.isSome then mswapEnd r
    else whole p do
      let cap ← rdW a
      let snd ← rdW b
      let rcv ← rdW c
      let n := len.toNat
      let s ← get
      let t ← tileM
      if !(decide (n % 32 = 0) && decide (32 ≤ n) && decide (n ≤ 65536)
          && (snd == rcv || decide (snd.toNat + n ≤ rcv.toNat) || decide (rcv.toNat + n ≤ snd.toNat))) then illegal
      else if snd.toNat % 32 ≠ 0 then trap 0x08 snd
      else if rcv.toNat % 32 ≠ 0 then trap 0x08 rcv
      else match swapPerm (s.spSize s.cur) t snd.toNat rcv.toNat n with
        | some o => trap 0x06 (word o)
        | none =>
          match s.capReason r cap (some 3) with
          | some k => trap 0x0B (word (k * 65536 + capTile cap))
          | none => do
            copyWaits false [(snd.toNat, n)]
            copyWaits true [(rcv.toNat, n)]
            if capTile cap = s.cur then do
              if t.spBad snd.toNat n then fail .ue
              else do
                modTile (fun t => t.storeSp rcv.toNat (t.taskBytes snd.toNat n))
                pure .next
            else do
              modTile (fun t => { t with
                swap := some ⟨capTile cap, snd.toNat, rcv.toNat, n⟩
                run := t.run.map (fun r => { r with begun := some (.mswap p a b c len), peer := capTile cap }) })
              failKeep (.stall .swap))

/-- A swap's end noted with what its tile runs. -/
def Tile.endSwap (t : Tile) (made : Bool) : Tile :=
  { t with swap := none, run := t.run.map (fun r => { r with swapped := some made }) }

/-- Two tiles whose swaps name each other exchange, or both are refused. -/
def execMswapMatch (tile partner : Nat) (s : State) : Host.Outcome State Fault Refusal :=
  let t := s.tile tile
  let u := s.tile partner
  match t.swap, u.swap with
  | some x, some y =>
    if x.partner = partner ∧ y.partner = tile then
      if x.len ≠ y.len then .next ((s.setTile tile (t.endSwap false)).setTile partner (u.endSwap false))
      else if t.spBad x.send x.len then .next (match t.run with
        | some r => s.taskError r.job r.rcd tile
        | none => s)
      else if u.spBad y.send y.len then .next (match u.run with
        | some r => s.taskError r.job r.rcd partner
        | none => s)
      else
        let s := s.exchange tile partner x y
        .next ((s.setTile tile ((s.tile tile).endSwap true)).setTile partner ((s.tile partner).endSwap true))
    else .next s
  | _, _ => .next s

end Sys2Proof.Machine
end

