-- ==== Sys2Proof/Machine/Ports.lean ====
section
/-! DEFINITION. Ports.lean: launch ports: LAUNCH, GRAPH, OPEN and CLOSE commands (R29, R39 to R44, R49 to R52). -/
namespace Sys2Proof.Machine

/-! Commands (R40). -/

def cmdAddr (c : List Byte) : Nat := fieldAt c 0 8
def cmdCode (c : List Byte) : Nat := fieldAt c 8 1
def cmdTag (c : List Byte) : Nat := fieldAt c 16 8
def cmdStat (c : List Byte) : Nat := fieldAt c 24 8
def cmdClean (c : List Byte) : Bool := decide (fieldAt c 9 7 = 0) && decide (fieldAt c 32 32 = 0)

/-- A STATADDR that a record can be written to, or none (R41). -/
def statOk (a : Nat) : Bool := a == 0 || (decide (a % 32 = 0) && decide (a < 2 ^ 60))

/-- The command at the front of a port, while its stream is not contained (R335). -/
def State.front (s : State) (jid sn : Nat) : Option (List Byte) :=
  match s.job? jid with
  | some j => if (j.stream sn).containing then none else ((j.stream sn).queue.head?).map (·.bytes)
  | none => none

/-- The front command served: the queue moves up, the oldest of the overflow behind it (R44). -/
def Stream.pop (x : Stream) : Stream :=
  let q := x.queue.drop 1
  { x with queue := q ++ x.overflow.take (64 - q.length), overflow := x.overflow.drop (64 - q.length) }

def State.popPort (s : State) (jid sn : Nat) : State :=
  match s.job? jid with
  | some j => s.setJob jid (j.setStream sn (j.stream sn).pop)
  | none => s

/-- BADWR of a stream counts one more (R38). -/
def State.badWrite (s : State) (jid sn : Nat) : State :=
  match s.job? jid with
  | some j =>
    let x := j.stream sn
    s.setJob jid (j.setStream sn { x with badwr := if x.badwr = BitVec.allOnes 32 then x.badwr else x.badwr + 1 })
  | none => s

/-- The front command rejected with a code. DESIGN CHOICE (log 109): R41 gives the STREAM byte of a record with no ticket for OPEN
and CLOSE only; that of a rejected LAUNCH or GRAPH is the port's as well. -/
def State.reject (s : State) (jid sn : Nat) (c : List Byte) (code : Nat) : State :=
  (s.popPort jid sn).writeStatus jid sn (cmdStat c) code noGang 0 (cmdTag c)

/-! Launch descriptors (R28, R29). -/

def descOf (b : List Byte) : Desc where
  entry := word (fieldAt b 0 8)
  ntask := fieldAt b 8 4
  cls := fieldAt b 12 1
  stream := fieldAt b 13 1
  prio := fieldAt b 14 1
  shape := fieldAt b 15 1
  shw := fieldAt b 16 2
  shh := fieldAt b 18 2
  nstage := fieldAt b 20 2
  nfoot := fieldAt b 22 2
  footptr := fieldAt b 24 8
  dsm := decide (fieldAt b 32 1 % 2 = 1)
  digest := fieldAt b 32 1 / 2 % 4
  qlog2 := if fieldAt b 32 1 / 8 = 0 then 12 else fieldAt b 32 1 / 8
  bars := BitVec.ofNat 8 (fieldAt b 33 1)
  snapb := fieldAt b 34 2
  arg0 := word (fieldAt b 40 8)
  arg1 := word (fieldAt b 48 8)
  frameb := fieldAt b 56 8
  afttk := fieldAt b 64 6
  afts := fieldAt b 70 1 % 16
  aftv := decide (fieldAt b 70 1 / 128 = 1)

/-- The fields keep R28 and the SHAPE rules of R29. -/
def descFields (b : List Byte) (spSize : Nat) : Bool :=
  let d := descOf b
  cpOk d.entry && decide (1 ≤ d.ntask) && decide (d.ntask ≤ 2 ^ 24) && decide (d.cls ≤ 2) && decide (d.stream < 16)
    && decide (d.prio < 32) && decide (d.shape ≤ 1)
    && (if d.shape = 1 then decide (1 ≤ d.shw) && decide (d.shw ≤ 24) && decide (1 ≤ d.shh) && decide (d.shh ≤ 24)
          && decide (d.cls = 2) && decide (d.shw * d.shh = d.ntask)
        else decide (d.shw = 0) && decide (d.shh = 0))
    && decide (1 ≤ d.nstage) && decide (d.nfoot ≤ 1024) && decide (d.footptr % 32 = 0) && decide (d.digest ≠ 3)
    && (decide (fieldAt b 32 1 / 8 = 0) || (decide (8 ≤ d.qlog2) && decide (d.qlog2 ≤ 16)))
    && decide (d.snapb ≤ spSize / 256) && decide (fieldAt b 36 4 = 0) && decide (d.frameb % 256 = 0)
    && decide (fieldAt b 70 1 / 16 % 8 = 0) && decide (fieldAt b 71 57 = 0)

def footKind : Nat → Option FKind
  | 0 => some .inp
  | 1 => some .out
  | 2 => some .inout
  | 3 => some .priv
  | _ => none

/-- A footprint entry, when it keeps R31. -/
def footEntry (b : List Byte) : Option Foot :=
  let base := fieldAt b 0 8
  let len := fieldAt b 8 8
  if base % 128 = 0 && base < 2 ^ 60 && len % 128 = 0 && 128 ≤ len && base + len ≤ 2 ^ 60 && fieldAt b 17 15 = 0 then
    (footKind (fieldAt b 16 1)).map (fun k => ⟨base, len, k⟩)
  else none

/-- Two ranges share a byte. -/
def meets (a n b m : Nat) : Bool := decide (a < b + m) && decide (b < a + n)

/-- R32: no entry overlaps another, the job control block or a region of code or constants. -/
def footsApart (regions : List Region) : List Foot → Bool
  | [] => true
  | f :: t => t.all (fun g => !meets f.base f.len g.base g.len) && !meets f.base f.len Config.jcbBase 8192
      && regions.all (fun r => r.len == 0 || !meets f.base f.len r.base r.len) && footsApart regions t

/-- What acceptance copies (R36, R43). -/
structure Launch where
  desc : Desc
  foot : List Foot
  code : List Region
  consts : List Region
  deriving DecidableEq, Repr

/-- Tiles, width and height of a polder. -/
def Polder.size (p : Polder) : Nat := 36 * p.quads.length
def Polder.width (p : Polder) : Nat := 6 * (p.qx1 + 1 - p.qx0)
def Polder.height (p : Polder) : Nat := 6 * (p.qy1 + 1 - p.qy0)

/-- The code when a condition holds. -/
def codeIf (b : Bool) (c : Nat) : List Nat := if b then [c] else []

/-- Failures of a descriptor's values against the job (R29, R42); `more` gangs of the command come before it, and `ahead` of
them take a ticket of its stream. -/
def State.descCodes (s : State) (j : Job) (d : Desc) (more ahead : Nat) : List Nat :=
  let open_ (n : Nat) : Bool := (j.stream n).opened
  let big := match s.polder? j.polder with
    | some p => decide (min (j.ceil) p.size < d.ntask) || (d.shape == 1 && (decide (p.width < d.shw) || decide (p.height < d.shh)))
    | none => true
  codeIf (decide (s.ceilPrio j < d.prio)) 0x103 ++
  codeIf (!open_ d.stream || (d.aftv && !open_ d.afts)) 0x104 ++
  codeIf (d.cls == 2 && big) 0x106 ++
  codeIf (d.cls != 2 && d.bars != 0) 0x107 ++
  codeIf ((j.gang? ((j.launches + more) % noGang)).any (·.live)) 0x108 ++
  codeIf (decide (2 ^ 48 - 1 < (j.stream d.stream).tail + ahead + 1)) 0x109

/-- The descriptor at an address with its tables: every failure found, and what would be accepted. -/
def State.readLaunch (s : State) (jid : Nat) (j : Job) (addr more : Nat) (ahead : Desc → Nat) : List Nat × Option Launch :=
  let area := codeIf (!s.areaOk j) 0x10F
  let size := spSizeOf (((s.polder? j.polder).map (·.memcfg)).getD 0x2401)
  match s.devRead jid (s.jobSite jid) addr 128 accLoad with
  | .error _ => (codeIf (decide (addr % 128 ≠ 0)) 0x100 ++ ([0x10A] ++ area), none)
  | .ok (_, b) =>
    let d := descOf b
    let bad := codeIf (decide (addr % 128 ≠ 0) || !descFields b size) 0x100
    let codes := bad ++ (s.descCodes j d more (ahead d) ++ area)
    if d.nfoot > 1024 then (codes, none)
    else
      -- a table whose count breaks its limits is not read; the area is invalid then
      let table (ptr n : Nat) : Option (Option (List Region)) :=
        if 64 < n then none else match s.regionTable jid ptr n with
          | .ok rs => some (some rs)
          | .error _ => some none
      let code := table (s.jcb j 0x18 8) (s.jcb j 0x14 4)
      let consts := table (s.jcb j 8 8) (s.jcb j 0x10 4)
      let unread (x : Option (Option (List Region))) : Bool := x == some none
      let regions (x : Option (Option (List Region))) : List Region := (x.getD none).getD []
      let lost := codeIf (unread code || unread consts) 0x10A
      match s.devRead jid (s.jobSite jid) d.footptr (32 * d.nfoot) accLoad with
      | .error _ => (codes ++ (0x10A :: lost), none)
      | .ok (_, fb) =>
        (match (List.range d.nfoot).mapM (fun i => footEntry ((fb.drop (32 * i)).take 32)) with
        | none => (codes ++ (0x101 :: lost), none)
        | some foot =>
          let frames := foot.any (fun (f : Foot) => f.kind == .priv && decide (f.base ≤ d.frameb)
            && decide (d.frameb + d.ntask * 0x1800 ≤ f.base + f.len))
          (codes ++ (codeIf (!footsApart (regions code ++ regions consts) foot) 0x101 ++ (codeIf (!frames) 0x102 ++ lost)),
            some ⟨d, foot, regions code, regions consts⟩))

/-- The descriptor at an address, when it can be read. -/
def State.descrAt (s : State) (jid addr : Nat) : Option Desc :=
  match s.devRead jid (s.jobSite jid) addr 128 accLoad with
  | .ok (_, b) => some (descOf b)
  | .error _ => none

/-- The lowest of some codes (R42). -/
def lowest : List Nat → Option Nat
  | [] => none
  | c :: t => match lowest t with
    | some d => some (min c d)
    | none => some c

/-- A gang accepted: it takes the next GANG value and the next ticket of its stream (R24, R43); stale code goes (R110). -/
def State.accept (s : State) (jid : Nat) (l : Launch) (ctag stat : Nat) (node : Option (Nat × Nat)) : State × Nat × Nat :=
  match s.job? jid with
  | none => (s, noGang, 0)
  | some j =>
    let gid := j.launches % noGang
    let x := j.stream l.desc.stream
    let g : Gang := {
      desc := l.desc, foot := l.foot, code := l.code, consts := l.consts, stream := l.desc.stream, ticket := x.tail + 1, opening := x.epoch
      aftEpoch := (j.stream l.desc.afts).epoch, aftDone := decide (l.desc.afttk < (j.stream l.desc.afts).head) && !j.voided l.desc.afts (j.stream l.desc.afts).epoch l.desc.afttk, born := j.launches, ctag := ctag, stat := stat, node := node }
    ((s.setJob jid { (j.setStream l.desc.stream { x with tail := x.tail + 1 }).setGang gid g with
        launches := j.launches + 1
        codeDigest := if l.code = j.codeRegs then j.codeDigest else 0 }).dropCodeOf
      jid j.polder l.code, gid, x.tail + 1)

/-- A command whose STATADDR no record can be written to is dropped, BADWR counting it (R41). -/
def State.dropCmd (s : State) (jid sn : Nat) : State := (s.popPort jid sn).badWrite jid sn

/-! LAUNCH (R43). -/

def execPortLaunch (job stream : Nat) (s : State) : Host.Outcome State Fault Refusal :=
  match s.front job stream, s.job? job with
  | some c, some j =>
    if cmdCode c ≠ 1 then .next s
    else if !statOk (cmdStat c) then .next (s.dropCmd job stream)
    else
      let (codes, l) := s.readLaunch job j (cmdAddr c) 0 (fun _ => 0)
      let closed := codeIf (!(j.stream stream).opened) 0x104
      let wrong := codeIf ((s.descrAt job (cmdAddr c)).any (fun d => decide (d.stream ≠ stream))) 0x105
      let codes := codes ++ (closed ++ (wrong ++ codeIf (!cmdClean c) 0x10D))
      (match lowest codes, l with
      | none, some l =>
        let (s, gid, tk) := (s.popPort job stream).accept job l (cmdTag c) (cmdStat c) none
        .next (s.writeStatus job stream (cmdStat c) 0 gid tk (cmdTag c))
      | some k, _ => .next (s.reject job stream c k)
      | none, none => .next (s.reject job stream c 0x10A))
  | _, _ => .next s

/-! GRAPH (R49 to R51). -/

/-- A template as read: nodes with descriptor address, NPRED, successors. -/
structure TNode where
  addr : Nat
  npred : Nat
  succs : List Nat
  deriving DecidableEq, Repr

/-- The template at an address: every failure of its own, and its nodes as far as they can be read. DESIGN CHOICE (log 109): R40
and R49 set limits to which R42 and R50 give no code of their own (a template address that is no multiple of 64, the limits of R49,
a successor number at or above NNODE): they count as BAD_GRAPH; the edges that name a node are those of the nodes' successor
lists. -/
def State.readTemplate (s : State) (jid addr : Nat) : List Nat × List TNode :=
  match s.devRead jid (s.jobSite jid) addr 64 accLoad with
  | .error _ => ([0x10A], [])
  | .ok (_, h) =>
    let nn := fieldAt h 0 4
    let ne := fieldAt h 4 4
    let nt := fieldAt h 8 8
    let et := fieldAt h 16 8
    let head := codeIf (decide (addr % 64 ≠ 0 ∨ nn = 0 ∨ 65536 < nn ∨ 2 ^ 20 < ne ∨ nt % 16 ≠ 0 ∨ et % 4 ≠ 0 ∨ fieldAt h 24 40 ≠ 0)) 0x10B
    if 65536 < nn then (head, [])
    else
      match s.devRead jid (s.jobSite jid) nt (16 * nn) accLoad with
      | .error _ => (head ++ [0x10A], [])
      | .ok (_, nb) =>
        -- node entries: DESC, NPRED, NSUCC, SUCC0
        let raw := (List.range nn).map (fun i => (fieldAt nb (16 * i) 8, fieldAt nb (16 * i + 8) 2, fieldAt nb (16 * i + 10) 2,
          fieldAt nb (16 * i + 12) 4))
        let outside := raw.any (fun n => decide (0 < n.2.2.1 ∧ ne < n.2.2.2 + n.2.2.1))
        if 2 ^ 20 < ne then (head, raw.map (fun n => ⟨n.1, n.2.1, []⟩))
        else match s.devRead jid (s.jobSite jid) et (4 * ne) accLoad with
          | .error _ => (head ++ (0x10A :: codeIf outside 0x10B), raw.map (fun n => ⟨n.1, n.2.1, []⟩))
          | .ok (_, eb) =>
            let edges := (List.range ne).map (fun i => fieldAt eb (4 * i) 4)
            let nodes := raw.map (fun n => (⟨n.1, n.2.1, (edges.drop n.2.2.2).take n.2.2.1⟩ : TNode))
            let all := nodes.flatMap (·.succs)
            let right := (nodes.zipIdx).all (fun e => e.1.succs.all (fun k => decide (e.2 < k) && decide (k < nn))
              && decide (e.1.npred = all.count e.2))
            (head ++ codeIf (outside || !right) 0x10B, nodes)

/-- Every failure of a GRAPH command, of its template and of every node's descriptor (R50), and what it would launch. -/
def State.readGraph (s : State) (jid : Nat) (j : Job) (c : List Byte) (stream : Nat) : List Nat × List (TNode × Launch) :=
  let base := codeIf (!(j.stream stream).opened) 0x104 ++ (codeIf (!cmdClean c) 0x10D ++ codeIf (!s.areaOk j) 0x10F)
  let (own, nodes) := s.readTemplate jid (cmdAddr c)
  let total := match s.polder? j.polder with
    | some p => 4096 * p.quads.length
    | none => 0
  let step (acc : List Nat × List (TNode × Launch)) (e : TNode × Nat) : List Nat × List (TNode × Launch) :=
    let before (d : Desc) : Nat := (acc.2.filter (fun x => decide (x.2.desc.stream = d.stream))).length
    let (cs, l) := s.readLaunch jid j e.1.addr e.2 before
    (acc.1 ++ cs, match l with
      | some l => acc.2 ++ [(e.1, l)]
      | none => acc.2)
  nodes.zipIdx.foldl step (base ++ (own ++ codeIf (decide (total < nodes.length)) 0x10C), [])

/-- Predecessor counters in use in a polder (R51). -/
def State.countersUsed (s : State) (polder : Nat) : Nat :=
  ((s.jobs.filter (fun (e : Nat × Job) => decide (e.2.polder = polder))).map (fun (e : Nat × Job) =>
    (e.2.graphs.map (fun (g : Graph) => g.nodes.length)).foldl (· + ·) 0)).foldl (· + ·) 0

/-- Free predecessor counters of a job's polder. -/
def State.countersFree (s : State) (j : Job) : Nat :=
  match s.polder? j.polder with
  | some p => 4096 * p.quads.length - s.countersUsed j.polder
  | none => 0

/-- A GRAPH command at the front is checked: it is rejected, or waits for counters. -/
def execPortGraph (job stream : Nat) (s : State) : Host.Outcome State Fault Refusal :=
  match s.front job stream, s.job? job with
  | some c, some j =>
    if cmdCode c ≠ 2 then .next s
    else if !statOk (cmdStat c) then .next (s.dropCmd job stream)
    else match lowest (s.readGraph job j c stream).1 with
      | some k => .next (s.reject job stream c k)
      | none => .next s
  | _, _ => .next s

/-- Nodes accepted in order, each with its place in the instance. -/
def State.acceptNodes (jid inst : Nat) : List (TNode × Launch) → Nat → State → State × List GNode
  | [], _, s => (s, [])
  | (n, l) :: t, k, s =>
    let (s, gid, tk) := s.accept jid l 0 0 (some (inst, k))
    let (s, ns) := State.acceptNodes jid inst t (k + 1) s
    (s, ⟨gid, l.desc.stream, tk, n.succs, n.npred, none⟩ :: ns)

/-- The waiting GRAPH command takes its counters and every node its ticket, in one step. -/
def execGraphInstantiate (job stream : Nat) (s : State) : Host.Outcome State Fault Refusal :=
  match s.front job stream, s.job? job with
  | some c, some j =>
    let (codes, ls) := s.readGraph job j c stream
    if cmdCode c ≠ 2 || !statOk (cmdStat c) || (lowest codes).isSome || s.countersFree j < ls.length then .next s
    else
      let (s, nodes) := State.acceptNodes job j.ngraph ls 0 (s.popPort job stream)
      (match s.job? job with
      | none => .next s
      | some j =>
        let g : Graph := ⟨j.ngraph, cmdAddr c, cmdTag c, cmdStat c, nodes⟩
        let n0 := nodes.headD ⟨noGang, 0, 0, [], 0, none⟩
        .next ((s.setJob job { j with graphs := j.graphs ++ [g], ngraph := j.ngraph + 1 }).writeStatus job n0.stream (cmdStat c) 0
          n0.gang n0.ticket (cmdTag c)))
  | _, _ => .next s

/-- A completion event: the counters of a node's successors fall by one (R52). -/
def State.sendNode (s : State) (jid inst node : Nat) : State :=
  match s.job? jid with
  | none => s
  | some j =>
    s.setJob jid { j with graphs := j.graphs.map (fun (g : Graph) =>
      if g.id = inst then
        let succs := match g.nodes[node]? with
          | some n => n.succs
          | none => []
        { g with nodes := g.nodes.zipIdx.map (fun e => { e.1 with count := e.1.count - succs.count e.2 }) }
      else g) }

/-! OPEN and CLOSE (R43). -/

/-- The record of an OPEN or CLOSE, its STREAM the port's (R41). -/
def State.portStatus (s : State) (jid sn : Nat) (c : List Byte) (code : Nat) : State :=
  s.writeStatus jid sn (cmdStat c) code noGang 0 (cmdTag c)

/-- OPEN at the front of a port. DESIGN CHOICE (log 109): an ADDR that is not zero counts as a reserved field (R40, R42). -/
def execPortOpen (job stream : Nat) (s : State) : Host.Outcome State Fault Refusal :=
  match s.front job stream, s.job? job with
  | some c, some j =>
    if cmdCode c ≠ 3 then .next s
    else if !statOk (cmdStat c) then .next (s.dropCmd job stream)
    else if (j.stream stream).opened || !cmdClean c || cmdAddr c ≠ 0 then .next (s.reject job stream c 0x10D)
    else
      let s := s.popPort job stream
      (match s.job? job with
      | none => .next s
      | some j =>
        let x := j.stream stream
        .next ((s.setJob job (j.setStream stream { x with opened := true, tail := 0, head := 1, epoch := x.epoch + 1, lost := [] })).portStatus
          job stream c 0))
  | _, _ => .next s

/-- CLOSE at the front of a port: a wrong one, or one with a reserved OP, is rejected; a right one waits. -/
def execPortClose (job stream : Nat) (s : State) : Host.Outcome State Fault Refusal :=
  match s.front job stream, s.job? job with
  | some c, some j =>
    if [1, 2, 3].contains (cmdCode c) then .next s
    else if !statOk (cmdStat c) then .next (s.dropCmd job stream)
    else if cmdCode c ≠ 4 || !(j.stream stream).opened || !cmdClean c || cmdAddr c ≠ 0 then .next (s.reject job stream c 0x10D)
    else .next s
  | _, _ => .next s

/-- The commands waiting behind a CLOSE that is done: rejected with STREAM_NOT_OPEN (R43). DEDUCED (log 109): any of them, whatever
other cause with a lower code applies to it. -/
def State.rejectBehind (s : State) (jid sn : Nat) : State :=
  match s.job? jid with
  | none => s
  | some j =>
    let x := j.stream sn
    let s := s.setJob jid (j.setStream sn { x with queue := [], overflow := [] })
    (x.queue ++ x.overflow).foldl (fun (s : State) c =>
      if statOk (cmdStat c.bytes) then s.portStatus jid sn c.bytes 0x104 else s.badWrite jid sn) s

/-- The CLOSE at the front is done once every ticket has committed or been voided. -/
def execCloseComplete (job stream : Nat) (s : State) : Host.Outcome State Fault Refusal :=
  match s.front job stream, s.job? job with
  | some c, some j =>
    let x := j.stream stream
    if cmdCode c = 4 && statOk (cmdStat c) && x.opened && cmdClean c && cmdAddr c = 0 && x.head = x.tail + 1 then
      let s := s.popPort job stream
      (match s.job? job with
      | none => .next s
      | some j => .next ((s.setJob job (j.setStream stream { j.stream stream with opened := false })).portStatus job stream c 0
        |>.rejectBehind job stream))
    else .next s
  | _, _ => .next s

end Sys2Proof.Machine
end

