-- ==== Sys2Proof/Machine/Sched.lean ====
section
/-! DEFINITION. Sched.lean: when a gang is ready (R34, R44, R52), selection and dispatch (R45 to R48), placement of CONCURRENT gangs
(R72), the close of a quantum (R53, R54), the taking of records by idle tiles (R25, R407), pre-emption (R324 to R328). -/
namespace Sys2Proof.Machine

/-! Readiness. -/

def Foot.meets (f g : Foot) : Bool := Sys2Proof.Machine.meets f.base f.len g.base g.len

/-- An IN or INOUT entry waits for an earlier ticket of the stream (R34). -/
def Job.inWait (j : Job) (g : Gang) : Bool :=
  j.gangs.any (fun (e : Nat × Gang) => e.2.live && decide (e.2.stream = g.stream) && decide (e.2.ticket < g.ticket) &&
    e.2.foot.any (fun a => (a.kind == .out || a.kind == .inout) &&
      g.foot.any (fun b => (b.kind == .inp || b.kind == .inout) && a.meets b)))

/-- A PRIV entry waits for a gang accepted earlier that has not retired (R34). -/
def Job.privWait (j : Job) (g : Gang) : Bool :=
  j.gangs.any (fun (e : Nat × Gang) => (e.2.phase == .waiting || e.2.phase == .running) && decide (e.2.born < g.born) &&
    e.2.foot.any (fun a => g.foot.any (fun b => (a.kind == .priv || b.kind == .priv) && a.meets b)))

/-- A graph node waits for its predecessors (R52). -/
def Job.nodeWait (j : Job) (g : Gang) : Bool :=
  match g.node with
  | none => false
  | some (inst, n) =>
    match j.graphs.find? (fun (x : Graph) => decide (x.id = inst)) with
    | some x => (match x.nodes[n]? with
      | some nd => decide (nd.count ≠ 0)
      | none => false)
    | none => false

/-- Every wait of a gang is over. -/
def Job.gangReady (j : Job) (g : Gang) : Bool :=
  g.phase == .waiting && g.readyAt.isNone && (!g.desc.aftv || g.aftDone) && !j.inWait g && !j.privWait g && !j.nodeWait g

/-- The opening an AFTV wait is bound to has ended before its ticket committed, or that ticket has been voided (R44). -/
def Job.aftBroken (j : Job) (g : Gang) : Bool :=
  g.live && g.phase == .waiting && g.desc.aftv && !g.aftDone &&
    (!(j.stream g.desc.afts).opened || decide ((j.stream g.desc.afts).epoch ≠ g.aftEpoch) || j.voided g.desc.afts g.aftEpoch g.desc.afttk)

def execGangReady (job gang : Nat) (s : State) : Host.Outcome State Fault Refusal :=
  match s.job? job, s.gang? job gang with
  | some j, some g =>
    if j.aftBroken g then .next (s.contain job gang 0x201)
    else if j.gangReady g then .next (s.setGang job gang { g with readyAt := some s.ccy.toNat })
    else .next s
  | _, _ => .next s

/-! Effective priority (R45). -/

def State.ageOf (s : State) (j : Job) (g : Gang) : Nat :=
  match g.age with
  | some a => a
  | none => min (s.ceilPrio j) (g.desc.prio + (match g.readyAt with
    | some t => (s.ccy.toNat - t) / 2 ^ 20
    | none => 0))

def listMax : List Nat → Nat
  | [] => 0
  | x :: t => max x (listMax t)

def State.epOf (s : State) (j : Job) (g : Gang) : Nat :=
  let inh := if g.head j then
      listMax ((j.gangs.filter (fun (e : Nat × Gang) => e.2.live && decide (e.2.stream = g.stream)
        && decide (g.ticket < e.2.ticket))).map (fun e => s.ageOf j e.2))
    else 0
  max (s.ageOf j g) inh

/-- The effective priority of what a tile runs; none when it runs nothing or the border context. -/
def State.runEp (s : State) (n : Nat) : Option Nat :=
  match (s.tile n).run with
  | none => none
  | some r => match s.job? r.job, s.runGang r with
    | some j, some g => some (s.epOf j g)
    | _, _ => none

/-! Selection (R46, R47). -/

/-- A candidate for selection: job, gang, its effective priority. -/
structure Cand where
  job : Nat
  gid : Nat
  ep : Nat
  readyAt : Nat
  stream : Nat
  ticket : Nat
  deriving DecidableEq, Repr

/-- The greatest EP of a job's selected gangs that cannot be placed yet (R47). -/
def State.placeBar (s : State) (p : Polder) (jid : Nat) (j : Job) : Nat :=
  listMax ((p.waitPlace.filter (fun w => decide (w.1 = jid))).map (fun w => match j.gang? w.2 with
    | some g => if g.placing = 0 then s.epOf j g else 0
    | none => 0))

def State.candidates (s : State) (q : Nat) (p : Polder) : List Cand :=
  (s.jobs.filter (fun (e : Nat × Job) => decide (e.2.polder = q))).flatMap (fun (e : Nat × Job) =>
    (e.2.gangs.filterMap (fun (x : Nat × Gang) => match x.2.readyAt with
      | some t => if x.2.phase == .waiting && !x.2.dispatched then
          some ⟨e.1, x.1, s.epOf e.2 x.2, t, x.2.stream, x.2.ticket⟩ else none
      | none => none)).filter (fun c => decide (s.placeBar p e.1 e.2 ≤ c.ep)))

/-- Earlier ready, then lower stream, then lower ticket. -/
def Cand.before (a b : Cand) : Bool :=
  decide (a.readyAt < b.readyAt) || (a.readyAt == b.readyAt &&
    (decide (a.stream < b.stream) || (a.stream == b.stream && decide (a.ticket < b.ticket))))

def bestCand : List Cand → Option Cand
  | [] => none
  | c :: t => match bestCand t with
    | some d => if d.before c then some d else some c
    | none => some c

/-- The job a level's rotation serves next, and its count of selections (R46 step 2). -/
def rotate (pos count weight : Nat) (ids : List Nat) : Option (Nat × Nat) :=
  if ids.contains pos && decide (count < weight) then some (pos, count + 1)
  else match ids.find? (fun k => decide (pos < k)) with
    | some k => some (k, 1)
    | none => (ids.head?).map (fun k => (k, 1))

/-- Where the rotation stands after a selection (R46 step 2): at the job it served while that has selections left and a ready gang at the
level, else at the next job that has one, with none of its selections used (log 76). -/
def moveOn (pos count weight : Nat) (ids : List Nat) : Nat × Nat :=
  if (ids.contains pos && decide (count < weight)) || ids.isEmpty then (pos, count)
  else ((ids.find? (fun k => decide (pos < k))).getD (ids.headD pos), 0)

/-- The tiles of a territory that may take new work, rising. DESIGN CHOICE (log 120): R47 counts the m tiles of the territory; a tile
that is ceding, or marked dead but its owner's until the end of the phase (R78), takes no record and is not counted. -/
def State.openTiles (s : State) (jid : Nat) : List Nat :=
  (s.tilesOf jid).filter (fun n => (s.tile n).cess.isNone && !(s.tile n).dying)

/-- The root record i of a gang (R30). -/
def rootRecord (g : Gang) (gid i : Nat) : Record :=
  let w := rootWidth g.desc.ntask
  { cp := g.desc.entry, fp := word (g.desc.frameb + i * 0x1800), lin := rootLin w i, gang := BitVec.ofNat 32 gid,
    flags := mkFlags w 0 w false false }

/-- The gang's roots known as its tasks. -/
def Gang.withRoots (g : Gang) (gid : Nat) : Gang :=
  { g with tasks := (List.range g.desc.ntask).map (fun i =>
      ({ key := (rootRecord g gid i).key, addr := (rootRecord g gid i).addr, root := some i } : TaskInfo)) }

/-- A tile runs a task of a WEAK or PARALLEL gang of lower effective priority. -/
def State.yieldsTo (s : State) (n ep : Nat) : Bool :=
  (s.runEp n).any (fun p => decide (p < ep)) && ((s.tile n).run.bind s.runGang).any (fun g => g.desc.cls != 2)

/-- Roots released into the territory (R47): behind what the tile's deque holds, or before it where a task of lower EP runs. -/
def State.releaseRoots (s : State) (jid gid : Nat) (g : Gang) (ep : Nat) : State :=
  let own := s.openTiles jid
  let zero := own.filter (fun n => (s.tile n).strip == 0)
  let ts := if zero.isEmpty then own else zero
  let roots := (List.range g.desc.ntask).map (rootRecord g gid)
  if ts.isEmpty then roots.foldl (fun s r => s.pushReady jid r false) s
  else
    ts.zipIdx.foldl (fun s e =>
      let mine := (roots.zipIdx.filter (fun x => decide (x.2 % ts.length = e.2))).map (·.1)
      if mine.isEmpty then s
      else
        let d := (s.tile e.1).deque
        if s.yieldsTo e.1 ep then (s.putDeque e.1 (mine ++ d)).request e.1 .dispatch [gid]
        else s.putDeque e.1 (d ++ mine)) s

/-- A gang dispatched: its roots released, or, when it is CONCURRENT, its placement awaited. DESIGN CHOICE (log 110): R45 stops AGE
when a gang is dispatched; a CONCURRENT gang counts as dispatched when it is selected, before it is placed. -/
def State.dispatch (s : State) (q : Nat) (c : Cand) : State :=
  match s.job? c.job, s.gang? c.job c.gid with
  | some j, some g =>
    let g := { g with dispatched := true, age := some (s.ageOf j g) }
    if g.desc.cls = 2 then
      let s := s.setGang c.job c.gid g
      (match s.polder? q with
      | some p => s.setPolder q { p with waitPlace := p.waitPlace ++ [(c.job, c.gid)] }
      | none => s)
    else
      let g := { g with phase := .running }.withRoots c.gid
      (s.setGang c.job c.gid g).releaseRoots c.job c.gid g c.ep
  | _, _ => s

def execDispatchSelection (polder : Nat) (s : State) : Host.Outcome State Fault Refusal :=
  match s.polder? polder with
  | none => .next s
  | some p =>
    if s.ccy.toNat < p.lastSel + 32 then .next s
    else
      let cs := s.candidates polder p
      let level := listMax (cs.map (·.ep))
      let top := cs.filter (fun c => decide (c.ep = level))
      let ids := sortBy (fun a b => decide (a < b)) (top.map (·.job)).eraseDups
      let first := listMax [(sortBy (fun a b => decide (a < b)) ((s.jobs.filter (fun (e : Nat × Job) =>
        decide (e.2.polder = polder))).map (·.1))).headD 0]
      let (pos, count) := AMap.getD p.rot level (first, 0)
      let weight := match s.job? pos with
        | some j => j.weightOf
        | none => 1
      match rotate pos count weight ids with
      | none => .next s
      | some (jid, k) =>
        match bestCand (top.filter (fun c => decide (c.job = jid))) with
        | none => .next s
        | some c =>
          let left := top.filter (fun x => decide (x ≠ c))
          let at_ := moveOn jid k (((s.job? jid).map (·.weightOf)).getD 1) (ids.filter (fun i => left.any (fun x => decide (x.job = i))))
          .next ((s.setPolder polder { p with lastSel := s.ccy.toNat, rot := AMap.set p.rot level at_ }).dispatch polder c)

/-! Placement of CONCURRENT gangs (R72). -/

/-- A tile is free for a gang of effective priority ep (R72). DESIGN CHOICE (log 120): one that is ceding, marked dead or waiting
for an in-field test is not, for WAITC of R73 neither. -/
def State.freeFor (s : State) (jid gid ep n : Nat) : Bool :=
  (s.tile n).works jid && (match s.concurrentOn n with
    | some (a, b) => a == jid && b == gid
    | none => true) && !(s.runEp n).any (fun p => decide (ep ≤ p))

/-- The rectangle of tiles with its north-west corner at n. -/
def rectAt (n w h : Nat) : List Nat :=
  if 24 < n % 24 + w || 24 < n / 24 + h then []
  else (List.range h).flatMap (fun y => (List.range w).map (fun x => n + x + 24 * y))

/-- The tiles a gang takes, in the order of its roots; none while they are not all free. -/
def State.chooseTiles (s : State) (jid gid : Nat) (j : Job) (g : Gang) : Option (List Nat) :=
  let free := (s.tilesOf jid).filter (s.freeFor jid gid (s.epOf j g))
  if g.desc.shape = 1 then
    (free.map (fun n => rectAt n g.desc.shw g.desc.shh)).find? (fun r => !r.isEmpty && r.all (fun n => free.contains n))
  else if g.desc.ntask ≤ free.length then some (free.take g.desc.ntask) else none

/-- Records, each with the tile it lay on, dealt one in turn to some tiles, from the lowest. -/
def State.deal (s : State) (jid : Nat) (ts : List Nat) : List (Nat × Record) → Nat → State
  | [], _ => s
  | (from_, r) :: t, k =>
    match s.takeUp jid from_ r, ts[k % ts.length]? with
    | (s, some r), some n => State.deal (s.pushDeque n r false) jid ts t (k + 1)
    | (s, none), _ | (s, some _), none => State.deal s jid ts t k

/-- Records at the front of the ready queue, keeping their order (R17). -/
def State.frontReady (s : State) (jid : Nat) : List (Nat × Record) → State
  | [] => s
  | (from_, r) :: t => (s.frontReady jid t).moveReady jid from_ r true

/-- The deques of the chosen tiles, then the evicted records, dealt to the job's other tiles, or put first in the ready queue. -/
def State.clearTiles (s : State) (jid : Nat) (ns : List Nat) (ousted : List Record) : State :=
  let recs := ns.flatMap (fun n => (s.tile n).deque.map (fun r => (n, r))) ++ ousted.map (fun r => (0xFFFF, r))
  let s := ns.foldl (fun s n => s.setTile n { s.tile n with deque := [] }) s
  let others := (s.tilesOf jid).filter (fun n => !s.hostsConcurrent n)
  if others.isEmpty then s.frontReady jid recs else s.deal jid others recs 0

/-- What was saved of a root back on its new tile, where it waits if it waited (R160, R328). -/
def State.returnSave (jid gid : Nat) (g : Gang) (s : State) (x : RootSave) : State :=
  match ((g.tasks.find? (fun t => decide (t.addr = x.addr))).bind (·.root)).bind (fun i => g.placed[i]?) with
  | some n =>
    let t := { s.tile n with sp := x.sp, spPoison := x.poison, mat := x.mat, matClean := x.mat.bytes.isEmpty
                             root := x.wait.map (fun (w : RootWait) => { w with mat := none }) }
    (s.setTile n { t with wp := word (s.spSize n - 0x1800) }).dropSave jid gid x.addr n
  | none => s

/-- A saved root that waited on its tile waits on its new one. -/
def State.restoreWaits (s : State) (jid gid : Nat) (g : Gang) : State :=
  (g.saves.filter (·.wait.isSome)).foldl (State.returnSave jid gid g) s

/-- A gang's tiles are empty of other work. -/
def State.tilesClear (s : State) (g : Gang) : Bool := g.placed.all (fun n => (s.tile n).run.isNone && (s.tile n).saved.isNone)

/-- The gang no longer waits for placement. -/
def State.unwait (s : State) (q jid gid : Nat) : State :=
  match s.polder? q with
  | some p => s.setPolder q { p with waitPlace := p.waitPlace.filter (fun w => decide (w ≠ (jid, gid))) }
  | none => s

/-- Every live root is on its tile. -/
def State.allResident (s : State) (jid : Nat) (g : Gang) : Bool :=
  g.tasks.all (fun t => match t.root with
    | some i => (match g.placed[i]? with
      | some n => (s.tile n).hosts jid t.addr || (s.tile n).root.any (fun w => decide (w.job = jid) && decide (w.rcd.addr = t.addr))
      | none => false)
    | none => true)

/-- The gang starts once all its roots are resident (R72): superstep 0 begins at its first placement (R331). A rollback that was
put off to a re-placement, or that an error in restoring a root brings, is made once the gang has its tiles, before any root runs
(R333). -/
def State.startGang (s : State) (jid gid : Nat) : State :=
  match s.gang? jid gid with
  | none => s
  | some g0 =>
    let s := if g0.placing = 2 && g0.rollDue then g0.saves.foldl (State.returnSave jid gid g0) s else s
    match s.gang? jid gid with
    | none => s
    | some g =>
    if g.placing = 2 && (g.rollDue || s.allResident jid g) then
      let s := s.setGang jid gid { g with placing := 0, out := false, stop := [] }
      if g.phase == .waiting then
        let s := s.setGang jid gid { g with placing := 0, out := false, stop := [], phase := .running }
        s.startJournals jid gid none
      else if g.rollDue then
        let s := s.rollback jid gid
        g.placed.foldl (fun (s : State) n => match (s.tile n).run with
          | some r => s.noteTaint n jid r.rcd
          | none => s) s
      else s
    else s

/-- A selected CONCURRENT gang: its tiles are taken at the first instant they are all free, unless one of the job of higher EP still
waits for its own (R47), their tasks evicted; when they are clear, the evicted records find their places and the roots go to their tiles. -/
def execConcurrentPlacement (job gang : Nat) (s : State) : Host.Outcome State Fault Refusal :=
  match s.job? job, s.gang? job gang with
  | some j, some g =>
    if !g.live || !(match s.polder? j.polder with
        | some p => p.waitPlace.contains (job, gang)
        | none => false) then .next s
    else if g.placing = 0 then
      (match if (s.polder? j.polder).any (fun p => decide (s.epOf j g < s.placeBar p job j)) then none else s.chooseTiles job gang j g with
      | none => .next s
      | some ns =>
        let s := ns.foldl (fun s n => s.request n .placement) s
        .next (s.setGang job gang { g with placed := ns, placing := 1 }))
    else if g.placing = 1 && s.tilesClear g then
      let s := s.clearTiles job g.placed g.ousted
      let s := s.unwait j.polder job gang
      (match s.gang? job gang with
      | none => .next s
      | some g =>
        let first := g.phase == .waiting
        let g := { (if first then g.withRoots gang else g) with placing := 2, ousted := [] }
        let s := s.setGang job gang g
        let s := if first then (g.placed.zipIdx).foldl (fun s e => s.pushDeque e.1 (rootRecord g gang e.2) true) s
          else s.restoreWaits job gang g
        .next (s.startGang job gang))
    else .next s
  | _, _ => .next s

/-! The close of a quantum (R53, R54). -/

/-- Tasks of a gang in lineage order. -/
def Gang.inOrder (g : Gang) : List TaskInfo := sortBy (fun a b => a.key.lt b.key) g.tasks

/-- Returning atomics of the quantum served in lineage order; the state, and whether all were served. -/
def State.serveAll (jid gid : Nat) : List TaskInfo → State → State × Bool
  | [], s => (s, true)
  | x :: t, s =>
    match x.amo with
    | none => State.serveAll jid gid t s
    | some a =>
      match s.serveAmo jid gid x a with
      | .ok s => State.serveAll jid gid t s
      | .full s => (s, false)
      | .failed s => (s, false)

/-- Decrements owed by tasks that executed done, in lineage order; a frame's fault stops them (R408). -/
def State.payAll (jid gid : Nat) : List TaskInfo → State → State × Bool
  | [], s => (s, true)
  | x :: t, s =>
    match x.owes with
    | none => State.payAll jid gid t s
    | some p =>
      if ((s.job? jid).map (·.blocked.contains p)).getD false then (s, false)
      else match s.decJC jid gid p none with
        | .error f => (s.frameFault 0xFFFF jid gid p (s.seqOf jid p) f, false)
        | .ok s =>
          let s := match s.gang? jid gid with
            | some g => s.setGang jid gid { g with tasks := g.tasks.filter (fun y => !(decide (y.key = x.key) && y.owes.isSome)) }
            | none => s
          State.payAll jid gid t s

/-- The next quantum begins: every task that is not blocked goes on, QCOUNT from zero. With no such task nobody has begun it yet. -/
def State.nextQuantum (s : State) (jid gid : Nat) : State :=
  match s.gang? jid gid with
  | none => s
  | some g =>
    let s := { s with tiles := s.tiles.map (fun (e : Nat × Tile) => (e.1,
      match e.2.run with
      | some r => if r.job = jid && g.tasks.any (fun x => decide (x.addr = r.taskAddr) && !x.blocked) && r.gid = gid then
          e.2.setCtl cQCOUNT 0 else e.2
      | none => e.2)) }
    let onTile (a : Nat) : Bool := s.tiles.any (fun (e : Nat × Tile) => e.2.hosts jid a)
    s.setGang jid gid { g with
      quantum := g.quantum + 1
      dormant := g.tasks.all (fun x => x.ended && x.blocked)
      tasks := g.tasks.map (fun (x : TaskInfo) => { x with ended := x.ended && x.blocked, fresh := !onTile x.addr }) }

/-- Every live task of a DSM gang has ended its part (R54). DESIGN CHOICE (log 107): a quantum that nobody has begun, every task being
blocked, closes once one of them is blocked no longer: R53 lets it begin the quantum that follows. -/
def Gang.quantumOver (g : Gang) : Bool :=
  g.phase == .running && g.desc.dsm && !g.tasks.isEmpty && g.tasks.all (·.ended) && (!g.dormant || g.tasks.any (!·.blocked))

def execQuantumClose (job gang : Nat) (s : State) : Host.Outcome State Fault Refusal :=
  match s.gang? job gang with
  | none => .next s
  | some g =>
    if !g.quantumOver then .next s
    else
      let (s, a) := State.serveAll job gang g.inOrder s
      if !a then .next s
      else
        let (s, b) := State.payAll job gang g.inOrder s
        if !b || !(s.gang? job gang).any (·.phase == .running) then .next s
        else .next ((s.nextQuantum job gang).maybeRetire job gang)

/-! Quanta of PARALLEL gangs, restriction (R25, R26). -/

def execParallelQuantumExpiry (tile : Nat) (s : State) : Host.Outcome State Fault Refusal :=
  match (s.tile tile).run with
  | some r => if 65536 ≤ r.contended then .next (s.requestOn tile .quantum) else .next s
  | none => .next s

def execRestrictionTimeout (tile : Nat) (s : State) : Host.Outcome State Fault Refusal :=
  let t := s.tile tile
  if t.run.isNone && 4096 ≤ t.idle then .next (s.setTile tile { t with unrestricted := true }) else .next s

/-! Pre-emption (R324 to R328). -/

def PreSrc.rank : PreSrc → Nat
  | .territory => 0
  | .placement => 1
  | .test => 2
  | .upcall => 3
  | .dispatch => 4
  | .quantum => 5

/-- The highest request (R325). -/
def topReq : List PreReq → Option PreReq
  | [] => none
  | q :: t => match topReq t with
    | some p => if p.src.rank < q.src.rank then some p else some q
    | none => some q

/-- A task issues nothing whatever it is asked: its frame waits for a reply (R408), its gang is on its way to its tiles (R72), it has ended
its part of a quantum and waits for the close (R53), or another task of a re-executed gang issues (R350). -/
def State.holds (s : State) (r : Run) : Bool :=
  (s.job? r.job).any (fun j => j.blocked.contains r.taskAddr) ||
    (s.runGang r).any (fun g => (g.task? r.taskAddr).any (fun x => x.ended && !x.blocked) || g.placing != 0
      || (g.reexec && g.issuer != some r.taskAddr))

/-- A task has stalled. DEDUCED (log 140): one that waits for the close of its quantum, for its turn in a re-execution, for its gang or
for a reply has stalled in the sense of R163, though no instruction of it waits. -/
def State.stalled (s : State) (r : Run) : Bool := r.stall.isSome || s.holds r

/-- LATCH allows a request to be taken: it is 0, or the task has stalled and a request has waited 65,536 cycles (R163). -/
def State.latchAllows (s : State) (t : Tile) (r : Run) : Bool :=
  t.ctl cLATCH == 0 || (s.stalled r && r.reqs.any (fun q => decide (q.since + 65536 ≤ s.ccy.toNat)))

/-- What must be complete before the save (R324): matrix operations, an mcmd with its verdict, a matched mswap, requests of the
scratchpad. -/
def State.drained (s : State) (n : Nat) : Bool :=
  (s.tile n).mq.isEmpty && (s.tile n).msg.isNone && !s.scratchBusy n
    && !(s.tile n).run.any (fun r => r.verdict.isSome || r.swapped.isSome)

/-- The save of R325 steps 2 and 3 by the firmware of a tile. Poison in what is saved is consumed (R146); a superstep that can be restored is
rolled back at the re-placement (R333). -/
def State.saveTask (s : State) (n : Nat) (r : Run) (q : PreReq) : State :=
  let t := s.tile n
  let bad := t.spBad t.base 0x1580
  let later := bad && (s.runGang r).any (fun g => g.out && g.placing == 0 && s.restorable g)
  if bad && !later then s.taskError r.job r.rcd n
  else
    let s := match s.runGang r, later with
      | some g, true => s.setGang r.job r.gid { g with rollDue := true }
      | _, _ => s
    let s := ((s.failFrozen n).acceptAll n).releaseGang n
    let t := s.tile n
    s.setTile n { t with
      run := none, swap := none
      saved := some { rcd := r.written r.pc 688 true, job := r.job, req := q, mat := t.taskMat.getD {}, matClean := t.taskMat.isNone,
                      pend := r.pend, entry := r.vec } }

/-- PREEMPT taken: SEPC and SSTAT written, the tile in supervisor mode in the pre-emption routine (R323, R325 step 1). An unmatched
mswap is abandoned (R237). -/
def State.enterSave (s : State) (n : Nat) : State :=
  let t := s.tile n
  match t.run with
  | some r => s.setTile n { t with swap := none, sepc := r.pc, sstat := 0x1100, run := some { r with sup := true, firm := some .save } }
  | none => s

/-- A task that is its own unit of pre-emption is ready for it. -/
def State.mayPreempt (s : State) (n : Nat) (r : Run) : Bool :=
  !r.sup && !r.reqs.isEmpty && s.latchAllows (s.tile n) r && s.drained n
    && s.poolRoom n (matNeed (s.tile n).taskMat.isNone)

/-- A CONCURRENT gang is ready: every task on its tiles has reached an allowed boundary, everything is drained (R327). -/
def State.gangMayStop (s : State) (g : Gang) : Bool :=
  g.out && g.placing = 0 && !g.placed.isEmpty && g.placed.all (fun n => s.drained n && (match (s.tile n).run with
    | some r => !r.sup && s.latchAllows (s.tile n) r
    | none => true)) && g.placed.any (fun n => (s.tile n).run.isSome)
    && g.placed.all (fun n => s.poolRoom n ((g.placed.map s.saveNeed).foldl (· + ·) 0))

/-- A task on a tile of a CONCURRENT gang that is pre-empted by itself: one that makes room for the gang's placement (R72). -/
def stopsAlone (g : Gang) : Bool := g.placing == 1

/-- The task a tile runs is saved: PREEMPT is taken, then the routine makes the save. -/
def State.preemptTask (s : State) (n : Nat) (r : Run) : State :=
  if (s.tile n).saving then
    (if s.drained n then s.saveTask n r ((topReq r.reqs).getD ⟨.territory, s.ccy.toNat, []⟩) else s)
  else if s.mayPreempt n r then s.enterSave n
  else s

/-- What becomes of requests made on a tile: the task is saved, or the whole CONCURRENT gang that holds the tile (R327). -/
def State.preemptOn (s : State) (n : Nat) : State :=
  match (s.tile n).run, s.concurrentOn n with
  | some r, some (jid, gid) =>
    (match s.gang? jid gid with
    | some g =>
      if s.gangMayStop g then g.placed.foldl State.enterSave s
      else if stopsAlone g || (s.tile n).saving then s.preemptTask n r
      else s
    | none => s)
  | some r, none => s.preemptTask n r
  | none, some (jid, gid) =>
    (match s.gang? jid gid with
    | some g => if s.gangMayStop g then g.placed.foldl State.enterSave s else s
    | none => s)
  | none, none => s

/-- PREEMPT on a tile. -/
def execPreempt (tile : Nat) (s : State) : Host.Outcome State Fault Refusal := .next (s.preemptOn tile)

/-- The same taken at a stall, LATCH set, after 65,536 cycles (R163). -/
def execLatchStallTimeout (tile : Nat) (s : State) : Host.Outcome State Fault Refusal :=
  match (s.tile tile).run with
  | none => .next s
  | some r => if s.stalled r && (s.tile tile).ctl cLATCH != 0 then .next (s.preemptOn tile) else .next s

/-- A record placed directly behind the roots of the gangs dispatched to its tile (R47). -/
def behindRoots (gids : NSet) (r : Record) (d : List Record) : List Record :=
  let isRoot (x : Record) : Bool := gids.contains x.gang.toNat && decide (x.depth = x.rootw) && decide (x.seq = 0)
  match (d.zipIdx.filter (fun e => isRoot e.1)).getLast? with
  | some e => d.take (e.2 + 1) ++ r :: d.drop (e.2 + 1)
  | none => r :: d

/-- The edge neighbours of a tile, rising (R59 leaves those across the dike out). -/
def edgeNeighbours (n : Nat) : List Nat :=
  (if n / 24 = 0 then [] else [n - 24]) ++ (if n % 24 = 0 then [] else [n - 1]) ++ (if n % 24 = 23 then [] else [n + 1])
    ++ (if n / 24 = 23 then [] else [n + 24])

/-- Records dealt in rotation to the tiles a job keeps, in increasing tile number; to its ready queue when it keeps none (R78).
DESIGN CHOICE (log 132): one count goes on from tile to tile and from split to split, so that the rotation does not start again at the
lowest tile. -/
def State.dealKept (s : State) (jid : Nat) : List Record → State
  | [] => s
  | r :: t =>
    match s.job? jid with
    | none => s
    | some j =>
      let own := s.tilesOf jid
      let s := match own[j.dealt % own.length]? with
        | some n => (s.setJob jid { j with dealt := j.dealt + 1 }).pushDeque n r false
        | none => s.pushReady jid r false
      State.dealKept s jid t

/-- Records of a tile that is evicted: to the deque of the tile that inherits them, or dealt to the kept component (R71, R78), each as it
stands where it lies (R21). -/
def State.evictRecords (s : State) (n jid : Nat) (rs : List Record) : State :=
  let cession := (s.tile n).cess
  rs.foldl (fun (s : State) r => match s.takeUp jid n r with
    | (s, none) => s
    | (s, some r) => match cession with
      | none => s.pushReady jid r true
      | some c => match c.heir with
        | some k => s.pushDeque k r false
        | none => s.dealKept jid [r]) s

/-- The deque of an evicted tile sent where its records go. -/
def State.evictDeque (s : State) (n jid : Nat) : State :=
  let d := (s.tile n).deque
  (s.setTile n { s.tile n with deque := [] }).evictRecords n jid d

/-- A root whose tile another task of its DSM gang is given stays there (R53, R160). -/
def State.stays (s : State) (w : Saved) : Bool :=
  w.req.src == .quantum && s.isResident w.job w.rcd && !(s.recGang w.job w.rcd).any (·.out)

/-- Where the rule of its source puts a pre-empted record (R325, R26, R47, R71, R72). DESIGN CHOICE (log 113): R72 gives no order
among the written-back records of several chosen tiles; they keep that of their copy-outs. DESIGN CHOICE (log 121): R70 says nothing of a
record saved for an eviction and not yet copied out when the move is abandoned; it goes to the front of the ready queue. -/
def State.requeue (s : State) (n : Nat) (w : Saved) (rcd : Record) : State :=
  match w.req.src with
  | .territory =>
    if (s.tile n).cess.isSome then (s.evictDeque n w.job).evictRecords n w.job [rcd] else s.pushReady w.job rcd true
  | .placement =>
    (match s.concurrentOn n with
    | some (jid, gid) => (match s.gang? jid gid with
      | some g => s.setGang jid gid { g with ousted := g.ousted ++ [rcd] }
      | none => s.pushReady w.job rcd true)
    | none => s.pushReady w.job rcd true)
  | .dispatch =>
    s.putDeque n (behindRoots w.req.gangs rcd (s.tile n).deque)
  | .quantum =>
    (if s.stays w then s.setTile n { s.tile n with root := some { rcd := rcd, job := w.job, base := (s.tile n).base } } else s).pushReady w.job rcd false
  | .test | .upcall => s.pushReady w.job rcd true

/-- The saved task copied out (R325 step 4): its frame and record written, its matrix state in the pool. -/
def State.copyOut (s : State) (n : Nat) (w : Saved) : Except XFault State := do
  let s ← s.writeBack n w.job w.rcd
  let t := s.tile n
  let s := s.setTile n { t with saved := none, run := none, idle := 0 }
  let s := s.keepMat w.job w.rcd.addr (if w.matClean || s.stays w then none else some w.mat)
  pure (s.addCarry w.job w.rcd.addr w.pend w.entry)

/-- One task copied out and requeued; a fault of its frame holds the tile (R408). -/
def State.copyOutTask (s : State) (n : Nat) : State :=
  match (s.tile n).saved with
  | none => s
  | some w =>
    if ((s.job? w.job).map (·.blocked.contains w.rcd.addr)).getD false then s
    else match s.copyOut n w with
      | .ok s => s.requeue n w w.rcd
      | .error f => s.frameFault n w.job w.rcd.gang.toNat w.rcd.addr w.rcd.seq.toNat f

/-- What is kept of the root of a tile of a pre-empted CONCURRENT gang: its whole scratchpad and matrix state. -/
def State.rootSave (s : State) (g : Gang) (e : Nat × Nat) : Option RootSave :=
  let t := s.tile e.1
  match g.tasks.find? (fun x => x.root == some e.2 && x.owes.isNone), t.root with
  | some x, some w => if w.rcd.addr = x.addr then some ⟨x.addr, t.sp, w.mat.getD t.mat, t.spPoison, some w⟩ else none
  | some x, none => match t.saved with
    | some w => if w.rcd.addr = x.addr then some ⟨x.addr, t.sp, w.mat, t.spPoison, none⟩ else none
    | none => none
  | none, _ => none

/-- The saved tasks of some tiles copied out, all of them or none: the matrix states of the roots of the gang go with their tiles. A fault
of a frame, with the tile and the task it holds (R408). -/
def State.copyOutAll (saves : List RootSave) : List Nat → State → Except (Nat × Saved × XFault) State
  | [], s => .ok s
  | n :: t, s =>
    match (s.tile n).saved with
    | none => State.copyOutAll saves t s
    | some w =>
      match s.copyOut n (if saves.any (fun x => decide (x.addr = w.rcd.addr)) then { w with matClean := true } else w) with
      | .ok s => State.copyOutAll saves t s
      | .error f => .error (n, w, f)

/-- A CONCURRENT gang copied out once every tile has acknowledged: the gang holds no tile and waits to be placed again. Frozen requests
of its tiles fail first (R285). A frame that does not translate holds all of it (R408), so that what is saved is one cut (R327). -/
def State.copyOutGang (s : State) (jid gid : Nat) (j : Job) (g : Gang) : State :=
  let s := g.placed.foldl (fun (s : State) n => (s.failFrozen n).acceptAll n) s
  let saves := g.placed.zipIdx.filterMap (s.rootSave g)
  let journals := g.journals.map (fun (x : Journal) => match g.placed[x.root]? with
    | some n => { x with units := (s.tile n).units, mregs := (s.tile n).mregs }
    | none => x)
  let out := g.placed.filterMap (fun n => (s.tile n).saved.map (fun w => (n, w)))
  if out.any (fun e => j.blocked.contains e.2.rcd.addr) then s
  else match State.copyOutAll saves g.placed s with
  | .error (n, w, f) => s.frameFault n w.job w.rcd.gang.toNat w.rcd.addr w.rcd.seq.toNat f
  | .ok s =>
    let s := out.foldl (fun (s : State) e => s.requeue e.1 e.2 e.2.rcd) s
    match s.gang? jid gid, s.polder? j.polder with
    | some g', some p =>
      if !g'.live then s
      else
        let s := { s with tiles := s.tiles.map (fun (e : Nat × Tile) =>
          if g.placed.contains e.1 then (e.1, { e.2 with root := none, journaling := false, units := [], mregs := [] }) else e) }
        (s.setGang jid gid { g' with placed := [], stop := [], saves := g'.saves ++ saves, journals := journals }).setPolder j.polder
          { p with waitPlace := p.waitPlace ++ [(jid, gid)] }
    | _, _ => s

/-- Every tile of a gang that is being stopped has acknowledged: it runs nothing, everything on it is complete (R324), and the save
pool has room for what no save under way has been promised (R326). -/
def State.gangStopped (s : State) (g : Gang) : Bool :=
  g.placed.all (fun n => (s.tile n).run.isNone && s.drained n) &&
    (g.placed.any (fun n => (s.tile n).saved.isSome)
      || g.placed.all (fun n => s.poolRoom n ((g.placed.map s.saveNeed).foldl (· + ·) 0)))

/-- Copy-out of a tile's saved task, or of the gang once every tile of it has acknowledged. -/
def execPreemptCopyOut (tile : Nat) (s : State) : Host.Outcome State Fault Refusal :=
  match s.concurrentOn tile with
  | some (jid, gid) =>
    (match s.job? jid, s.gang? jid gid with
    | some j, some g =>
      if g.out && g.placing = 0 then (if s.gangStopped g then .next (s.copyOutGang jid gid j g) else .next s)
      else .next (s.copyOutTask tile)
    | _, _ => .next s)
  | none => .next (s.copyOutTask tile)

/-! Taking a record (R407). -/

/-- Under DSM, the tile of a task that has ended its part may run another task of the gang (R53): a record that has not ended
its part, or one whose wait may be tried again. Leaving waits for room in the save pool (R326). -/
def State.dsmOther (s : State) (n : Nat) (r : Run) : Bool :=
  match s.job? r.job, s.runGang r with
  | some j, some g =>
    let me := g.task? r.taskAddr
    g.desc.dsm && (s.tile n).works r.job && !r.sup && me.any (·.ended) && r.reqs.isEmpty && (s.tile n).saved.isNone && s.drained n && s.latchAllows (s.tile n) r &&
      s.poolRoom n (if s.isResident r.job r.rcd then 0 else matNeed (s.tile n).taskMat.isNone) &&
      (let can (x : Record) : Bool := decide (x.gang.toNat = r.gid) && s.mayTake n r.job j x &&
          (g.task? x.addr).any (fun y => !y.ended || (y.blocked && !me.any (·.blocked)))
       (s.tile n).deque.any can || j.ready.any can
        || (s.tilesOf r.job).any (fun k => (s.tile k).deque.any can))
  | _, _ => false

/-- The waiting task of a DSM gang written back as EVICTED, behind the ready records; a root's workspace stays on its tile (R53,
R160). -/
def State.dsmLeave (s : State) (n : Nat) (r : Run) : State := (s.saveTask n r ⟨.quantum, s.ccy.toNat, []⟩).copyOutTask n

/-- TAKE_RECORD on a tile that is idle, or whose task waits for the close of a quantum. -/
def execTakeRecord (tile : Nat) (s : State) : Host.Outcome State Fault Refusal :=
  let s := match (s.tile tile).run with
    | some r => if s.dsmOther tile r then s.dsmLeave tile r else s
    | none => s
  match s.take tile with
  | none => .next s
  | some s =>
    match s.concurrentOn tile with
    | some (jid, gid) => .next (s.startGang jid gid)
    | none => .next s

end Sys2Proof.Machine
end

