-- ==== Sys2Proof/Machine/Retire.lean ====
section
/-! DEFINITION. Retire.lean: what happens to a retired gang. Digests (R346, R347), verification and serialised re-execution
(R349, R350), the application of batches and the commit (R302, R303, R342), retirement slots (R344, R345), metering (R351),
passes of a measurement (R354, R355), arrival of die-hashed writes (R294). -/
namespace Sys2Proof.Machine

/-! GF(2^128) (R347). -/

/-- Times x, modulo P. -/
def gfDouble (v : BitVec 128) : BitVec 128 := (v <<< 1) ^^^ (if v.getLsbD 127 then 0x87 else 0)

/-- The product of `a` with the polynomial of the low `n` bits of `b`. -/
def gfMulBits (a b : BitVec 128) : Nat → BitVec 128
  | 0 => 0
  | n + 1 =>
    -- the coefficient of x^(127 − n) comes first
    let acc := gfMulBits a b n
    gfDouble acc ^^^ (if b.getLsbD (127 - n) then a else 0)

def gfMul (a b : BitVec 128) : BitVec 128 := gfMulBits a b 128

/-- The fold constant C. -/
def foldConst : BitVec 128 := 0xE1A35C279B04D86F3C710A92F5E648BD

def fold (h b : BitVec 128) : BitVec 128 := gfMul (h ^^^ b) foldConst

def foldAll (h : BitVec 128) (bs : List (BitVec 128)) : BitVec 128 := bs.foldl fold h

/-! Blocks of committed entries (R346). -/

/-- A header block. -/
def headBlock (a kind op ty mod low : Nat) : BitVec 128 :=
  BitVec.ofNat 128 (a * 2 ^ 64 + kind * 2 ^ 56 + op * 2 ^ 48 + ty * 2 ^ 44 + mod * 2 ^ 40 + low)

/-- 16 bytes as a block, byte 0 lowest. -/
def blockOf (bs : List Byte) : BitVec 128 := BitVec.ofNat 128 (leVal (bs.take 16))

/-- A unit's data with unmasked bytes zero. -/
def maskedUnit (mask : BitVec 32) (data : BitVec 256) : List Byte :=
  (List.range 32).map (fun i => if mask.getLsbD i then (data.extractLsb' (8 * i) 8) else 0)

def Entry.blocks (e : Entry) : List (BitVec 128) :=
  match e.eff with
  | .store _ mask data =>
    let bs := maskedUnit mask data
    [headBlock e.va 1 0 0 0 mask.toNat, blockOf bs, blockOf (bs.drop 16)]
  | .atomic _ op ty v c =>
    [headBlock e.va 2 op.code ty.code 0 (ty.bits / 8), BitVec.ofNat 128 ((if op = .cas then c else 0) * 2 ^ 64 + v)]
  | .red _ op ty md v => [headBlock e.va 3 op.code ty.code md.code (ty.bits / 8), BitVec.ofNat 128 v]
  | .launch sn cmd =>
    headBlock 0 4 0 0 0 sn :: (List.range 4).map (fun i => blockOf (cmd.drop (16 * i)))

/-- The entries a gang commits: applied and staged. -/
def Gang.committing (g : Gang) : List Entry := g.applied ++ g.entries

/-- The keys of tasks with a committed entry, in lineage order. -/
def Gang.digestKeys (g : Gang) : List TKey :=
  sortBy TKey.lt ((g.committing.map (·.key)).eraseDups)

/-- D(t) of R347. -/
def Gang.taskDigest (g : Gang) (k : TKey) : BitVec 128 :=
  let es := sortBy (fun a b => decide (a.ord < b.ord)) (g.committing.filter (fun e => e.key == k))
  es.foldl (fun h e => foldAll h e.blocks) 0

/-- G of R347. -/
def Gang.gangDigest (g : Gang) : BitVec 128 :=
  let h := g.digestKeys.foldl (fun h k => foldAll h [k.lin, BitVec.ofNat 128 k.depth, g.taskDigest k]) 0
  fold h (BitVec.ofNat 128 g.committing.length)

/-! Retirement slots (R344, R345). -/

/-- The slot of a ticket. -/
def Job.slot (j : Job) (stream ticket : Nat) : Nat := j.retArea + (256 * stream + ticket % 256) * 128

/-- FLAGS of a slot as hardware writes them: EXPV stays. -/
def slotFlags (taint verified reexec expv : Bool) : Nat :=
  1 + (if taint then 2 else 0) + (if verified then 4 else 0) + (if reexec then 8 else 0) + (if expv then 16 else 0)

/-- The retirement record written; one that faults is dropped, BADWR counting it. -/
def State.writeSlot (s : State) (jid gid : Nat) (g : Gang) : State :=
  match s.job? jid with
  | none => s
  | some j =>
    let a := j.slot g.stream g.ticket
    let die := s.jobSite jid
    match s.devRead jid die a 128 accLoad with
    | .error _ => s.badWrite jid g.stream
    | .ok (s, old) =>
      let head := leBytes 6 g.ticket ++ (leBytes 1 g.stream ++
        (leBytes 1 (slotFlags g.tainted g.verified g.reexec (decide (fieldAt old 7 1 / 16 % 2 = 1))) ++ (leBytes 4 gid ++
        (leBytes 4 g.desc.ntask ++ (leBytes 8 s.ccy.toNat ++ (leBytes 8 g.committing.length ++ leBytes 16 g.digest.toNat))))))
      match s.devWrite jid die a accStore (head ++ ((old.drop 48).take 16 ++ (leBytes 4 g.rolls ++ List.replicate 60 0))) with
      | .ok s => s
      | .error _ => s.badWrite jid g.stream

/-- TAINT set in the slot of a committed ticket, while the slot is still that ticket's (R340). -/
def State.taintSlot (s : State) (jid stream ticket : Nat) : State :=
  match s.job? jid with
  | none => s
  | some j =>
    let a := j.slot stream ticket
    match s.devRead jid (s.jobSite jid) a 8 accLoad with
    | .error _ => s
    | .ok (s', old) =>
      if fieldAt old 0 6 = ticket && fieldAt old 6 1 = stream && decide (fieldAt old 7 1 % 2 = 1) then
        let f := fieldAt old 7 1
        (match s'.devWrite jid (s'.jobSite jid) (a + 7) accStore (leBytes 1 (if f / 2 % 2 = 1 then f else f + 2)) with
        | .ok s => s
        | .error _ => s)
      else s

/-! Verification and serialised re-execution (R349, R350). -/

/-- A failure of R349 or R350, with its reason. -/
def verifyFail (reason : Nat) : Failure := { detail := 7, code := 0x10, tval := reason }

/-- The gang runs again from its launch: its entries and journals go, its roots are made anew when it is dispatched or placed
again. -/
def State.reexecute (s : State) (jid gid : Nat) (g : Gang) : State :=
  let g' : Gang := { g with
    phase := .waiting
    dispatched := false
    reexec := true
    issuer := none
    tasks := []
    outlived := []
    ord := 0
    entries := []
    batches := []
    nbatch := 0
    nodeBatch := none
    applied := []
    quantum := 0
    step := 0
    norestore := false
    rollDue := false
    macs := 0
    journals := []
    doneRoots := []
    bars := []
    gens := List.replicate 8 0
    placing := 0
    out := false
    stop := [] }
  match s.job? jid with
  | some j => (s.setGang jid gid g').addCounter j 41 1
  | none => s

/-- Steps 2 and 3 of R342 for a gang in verify mode. -/
def State.verify (s : State) (jid gid : Nat) (j : Job) (g : Gang) : State :=
  let d := g.gangDigest
  let g' : Gang := { g with digest := d }
  match s.devRead jid (s.jobSite jid) (j.slot g.stream g.ticket) 128 accLoad with
  | .error _ => s.failGang jid gid (verifyFail 1)
  | .ok (s, b) =>
    if fieldAt b 0 6 ≠ g.ticket || fieldAt b 6 1 ≠ g.stream || fieldAt b 7 1 / 16 % 2 = 0 then s.failGang jid gid (verifyFail 1)
    else if fieldAt b 48 16 = d.toNat then s.setGang jid gid { g' with verified := true }
    else if g.reexec then s.failGang jid gid (verifyFail 2)
    else s.reexecute jid gid g'

/-! Applying batches (R302, R303). -/

/-- What is next for a live gang that is its stream's head. -/
inductive Drain where
  | nothing
  | entry (b : Batch) (e : Entry)
  | endBatch (b : Batch)
  | commit
  deriving DecidableEq, Repr

/-- The first entry of a batch in key order. -/
def Gang.firstOf (g : Gang) (b : Batch) : Option Entry :=
  (sortBy Entry.lt (g.entries.filter (fun e => decide (e.batch = some b.id)))).head?

/-- Whether the batches of a gang may apply now: it is head, and in verify mode it has been verified (R343); the passes of a
measurement but the last leave nothing (R354). -/
def Gang.mayApply (j : Job) (g : Gang) : Bool :=
  g.live && g.phase != .waiting && g.head j && (g.desc.digest != 2 || (g.phase == .retired && g.verified)) && !g.morePasses

def Gang.nextDrain (j : Job) (g : Gang) : Drain :=
  if !g.mayApply j then .nothing
  else match g.batches with
    | b :: _ =>
      if b.held then .nothing
      else (match g.firstOf b with
        | some e => .entry b e
        | none => .endBatch b)
    | [] => if g.phase == .retired then .commit else .nothing

/-- What counts an event of R353, and its unit: a counter of R351 for instructions retired, barge bytes ÷ 32 and lazy blocks; V-pipe
issues, L1 misses, staging and watermark stalls, instruction-cache and translation misses by themselves (log 128). -/
def meterOf : Nat → Option (Nat × Nat)
  | 2 => some (38, 1)
  | 4 => some (104, 1)
  | 5 => some (105, 1)
  | 10 => some (110, 1)
  | 11 => some (111, 1)
  | 12 => some (112, 1)
  | 13 => some (113, 1)
  | 14 => some (34, 32)
  | 15 => some (39, 1)
  | _ => none

/-- What a counter has counted in the pass, summed over the tiles that ran a task of the gang. -/
def State.passTotal (s : State) (m : Meas) (k : Nat) : Nat :=
  (m.tiles.map (fun n => AMap.getD (s.tile n).total k 0 - AMap.getD (AMap.getD m.base n []) k 0)).foldl (· + ·) 0

/-- Counts of the pass that ends (R353): those events that the manual defines by what the machine does are counted, the others,
of parts that the model leaves out, are free values. -/
def State.countPass (s : State) (m : Meas) : Meas :=
  let es := (m.events.drop (4 * (m.pass - 1))).take 4
  { m with counts := m.counts ++ es.zipIdx.map (fun e => match meterOf e.1 with
    | some (k, u) => word (s.passTotal m k / u)
    | none => Config.perfCount (s.draws + e.2)) }

/-- The result block (R355). -/
def Meas.block (m : Meas) : List Byte :=
  leBytes 8 ((if m.mismatch then 1 else 0) + (if m.logfull then 2 else 0) + (if m.wsfull then 4 else 0)) ++
  ((List.range 12).flatMap (fun i => leBytes 8 (m.counts.getD i 0).toNat) ++ leBytes 8 m.pass)

/-- The result of a measurement written once its gang has committed. -/
def State.reportMeas (s : State) (jid : Nat) (g : Gang) : State :=
  match g.meas with
  | none => s
  | some m =>
    let m := s.countPass m
    let s := { s with draws := s.draws + 4 }
    match s.devWrite jid (s.jobSite jid) m.result accStore m.block with
    | .ok s => s
    | .error _ => s

/-- A node's completion event, sent once (R52, R172). -/
def State.sendOnce (s : State) (jid gid : Nat) : State :=
  match s.gang? jid gid with
  | none => s
  | some g =>
    match g.node with
    | some (inst, n) => if g.nodeSent then s else (s.setGang jid gid { g with nodeSent := true }).sendNode jid inst n
    | none => s

/-- Steps 5 to 7 of R342: HEAD advances, the records are written, the gang is counted, the local sums are added up (R351). -/
def State.commitGang (s : State) (jid gid : Nat) (g : Gang) : State :=
  let g : Gang := { g with phase := .committed, digest := if g.desc.digest = 0 then 0 else g.gangDigest }
  let s := s.dhDrain
  let s := (s.setGang jid gid g).fixHead jid g.stream
  let s := if g.desc.digest = 0 then s else s.writeSlot jid gid g
  let s := match g.node with
    | some (inst, n) => (s.endNode jid inst n 1)
    | none => s.writeStatus jid g.stream g.stat 1 gid g.ticket g.ctag
  let s := s.sendOnce jid gid
  let s := s.reportMeas jid g
  let s := match s.job? jid with
    | some j => (s.addCounter j 43 1).flushMeter jid
    | none => s
  match s.gang? jid gid with
  | some g => s.setGang jid gid { g with entries := [], batches := [], applied := [], meas := none }
  | none => s

/-- One step of the drain; none when nothing can be done. -/
def State.drainStep (s : State) (jid gid : Nat) : Option State :=
  match s.job? jid, s.gang? jid gid with
  | some j, some g =>
    (match g.nextDrain j with
    | .nothing => none
    | .commit => some (s.commitGang jid gid g)
    | .endBatch b =>
      let s := s.dhDrain.setGang jid gid { g with batches := g.batches.drop 1, applied := if g.desc.digest = 0 then [] else g.applied }
      some (if g.desc.digest != 2 && g.nodeBatch.any (fun k => decide (k ≤ b.id + 1)) then s.sendOnce jid gid else s)
    | .entry _ e =>
      match s.applyEntry jid e with
      | .wait => none
      | .poison => some (s.gangError jid gid { detail := 3, code := 0x0F })
      | .ok s =>
        match s.gang? jid gid with
        | some g => some (s.setGang jid gid { g with
            entries := g.entries.erase e
            applied := g.applied ++ [e] })
        | none => some s)
  | _, _ => none

/-- A gdone's completion event is owed, and nothing of its batch is left to apply (R172). -/
def Gang.nodeOwed (g : Gang) : Bool :=
  g.live && !g.nodeSent && g.nodeBatch.any (fun k => g.batches.all (fun b => decide (k ≤ b.id))) && g.desc.digest != 2

/-- A retired gang in verify mode that has not been compared yet. -/
def Gang.unverified (g : Gang) : Bool := g.phase == .retired && g.desc.digest == 2 && !g.verified

/-- A retired gang is verified, an event it owes is sent, or its drain takes one step: between two of them others may see a batch
partly applied (R305). -/
def execGangDrain (job gang : Nat) (s : State) : Host.Outcome State Fault Refusal :=
  match s.job? job, s.gang? job gang with
  | some j, some g =>
    if g.unverified then .next (s.verify job gang j g)
    else if g.nodeOwed then .next (s.sendOnce job gang)
    else .next ((s.drainStep job gang).getD s)
  | _, _ => .next s

/-! Die-hashed writes (R294). -/

/-- What is on its way to a die goes on: a write is applied, delivered, or discarded as a repeat. -/
def execDieHashedWriteArrival (die : Nat) (s : State) : Host.Outcome State Fault Refusal :=
  .next ((s.dhStep (fun w => decide (w.dest % 4 = die))).getD s)

/-! Metering (R351). -/

def execMeteringFlush (job : Nat) (s : State) : Host.Outcome State Fault Refusal := .next (s.flushMeter job)

/-! The next pass of a measurement (R354). -/

/-- Bytes of control blocks that lie in pages of the write set: they are no part of it (log 143). -/
def State.jcbsIn (s : State) (m : Meas) : List (Nat × List Byte) :=
  (s.jobs.filter (fun e => m.pages.any (fun p => decide (p.1 = e.2.jcbpa / 65536)))).map (fun e =>
    (e.2.jcbpa, s.mem.readBytes e.2.jcbpa 0x2000))

/-- The write set as it was before the first pass; die-hashed writes to it are applied first (R354). DESIGN CHOICE (log 137): places
where records of the job's queues lie then keep them. -/
def State.restorePages (s : State) (jid : Nat) (m : Meas) : State :=
  let s := s.dhDrain
  let queued := ((s.job? jid).map (·.images)).getD [] |>.flatMap (fun e => match e.2 with
    | .hard _ => []
    | .mem va => match s.devKey jid (s.jobSite jid) va accLoad .read with
      | .ok k => (s.copiesOf jid k).map (fun k => (k, s.mem.readBytes k 64))
      | .error _ => [])
  let blocks := s.jcbsIn m
  let s := { s with dhLast := s.dhLast.filter (fun e => !m.pages.any (fun p => decide (p.1 = e.1 / 65536))) }
  let s := m.pages.foldl (fun s e =>
    let s := s.combine (65536 * e.1) 65536
    { s with mem := (s.mem.zero (65536 * e.1) 65536).writeBytes (65536 * e.1) (e.2.readBytes (65536 * e.1) 65536) }) s
  let s := { s with mem := (queued ++ blocks).foldl (fun m (e : Nat × List Byte) => m.writeBytes e.1 e.2) s.mem }
  match s.job? jid, m.jcb with
  | some j, some bs => s.homeWrite [] j.jcbpa bs
  | _, _ => s

/-- Every cache of the tiles of a job cleaned and emptied, its translations with them. -/
def State.emptyCaches (s : State) (jid : Nat) : State :=
  let s := (s.tilesOf jid).foldl (fun s n =>
    let s := s.acquire n .gang
    let t := s.tile n
    s.setTile n { t with icache := [], fbuf := [], ccache := [], tlb := [] }) s
  { s with qtlb := s.qtlb.map (fun e => (e.1, e.2.filter (fun x => decide (x.job ≠ jid)))) }

def execMeasurePassStart (job gang : Nat) (s : State) : Host.Outcome State Fault Refusal :=
  match s.job? job, s.gang? job gang with
  | some j, some g =>
    if !(g.phase == .running && g.tasks.isEmpty && g.morePasses) then .next s
    else match g.meas with
      | none => .next s
      | some m =>
        let s := (s.emptyCaches job).restorePages job m
        let s := (s.tilesOf job).foldl State.coolTile s
        let s := { s with tiles := s.tiles.map (fun (e : Nat × Tile) =>
          if g.placed.contains e.1 then (e.1, { e.2 with journaling := false, units := [], mregs := [] }) else e) }
        let m := { s.countPass m with pass := m.pass + 1, tiles := [], base := [] }
        let s := { s with draws := s.draws + 4 }
        let s := s.addCounter j 44 1
        .next (s.setGang job gang { g with
          phase := .waiting
          dispatched := false
          tasks := []
          outlived := []
          ord := 0
          entries := []
          batches := []
          nbatch := 0
          quantum := 0
          step := 0
          norestore := false
          rollDue := false
          macs := 0
          journals := []
          doneRoots := []
          bars := []
          gens := List.replicate 8 0
          placed := []
          placing := 0
          saves := []
          out := false
          stop := []
          meas := some m })
  | _, _ => .next s

end Sys2Proof.Machine
end

