-- ==== Sys2Proof/Machine/Territory.lean ====
section
/-! DEFINITION. Territory.lean: pressure (R63, R73), the border round (R62, R65 to R68), cession, wipe and transfer (R69 to R71),
dead tiles and split territories (R78). -/
namespace Sys2Proof.Machine

/-! Pressure. -/

/-- Tiles a CONCURRENT gang still lacks (R73). -/
def State.lacking (s : State) (jid gid : Nat) (j : Job) (g : Gang) : Nat :=
  g.desc.ntask - ((s.tilesOf jid).filter (s.freeFor jid gid (s.epOf j g))).length

/-- WAITC of a job: from its waiting gang that lacks most (log 43). -/
def State.waitc (s : State) (jid : Nat) (j : Job) : Nat :=
  let ws := match s.polder? j.polder with
    | some p => p.waitPlace.filter (fun (w : Nat × Nat) => decide (w.1 = jid))
    | none => []
  let u := listMax (ws.map (fun (w : Nat × Nat) => match j.gang? w.2 with
    | some g => if g.live && g.placing = 0 then s.lacking jid w.2 j g else 0
    | none => 0))
  let c := s.jcb j 0x204 2
  if c = 0 then 0 else (u + c - 1) / c

/-- PRES + ((D · 256 − PRES) asr 3) (R63). -/
def presNext (p : BitVec 16) (depth : Nat) : BitVec 16 :=
  let d : Int := (min 255 depth : Nat)
  BitVec.ofInt 16 ((p.toNat : Int) + (d * 256 - (p.toNat : Int)) / 8)

/-- The pressure of every tile at a multiple of 1,024 cycles, PRESS with it (R37, R63). DESIGN CHOICE (log 112): a tile marked dead
is its owner's until the end of the phase (R78), and goes on with its PRES until then. -/
def State.presAll (s : State) : State :=
  let wait (jid : Nat) : Nat := match s.job? jid with
    | some j => s.waitc jid j
    | none => 0
  let ws := s.jobs.map (fun (e : Nat × Job) => (e.1, wait e.1))
  let s := { s with tiles := s.tiles.map (fun (e : Nat × Tile) => (e.1, { e.2 with pres := match e.2.owner with
    | .job jid => presNext e.2.pres (e.2.deque.length + AMap.getD ws jid 0)
    | _ => 0 })) }
  s.jobs.foldl (fun s (e : Nat × Job) => (s.tilesOf e.1).foldl (fun s n =>
    s.setJcb e.2 (0x600 + 2 * n) 2 (s.tile n).pres.toNat) s) s

/-- TILECYC of every job (R351). -/
def State.tileCycles (s : State) : State :=
  s.jobs.foldl (fun s (e : Nat × Job) => s.addCounter e.2 37 (1024 * s.jcb e.2 0x204 2)) s

/-- The update made for so many multiples of 1,024 cycles. -/
def State.presTimes : Nat → State → State
  | 0, s => s
  | n + 1, s => State.presTimes n s.presAll.tileCycles

def execPresUpdate (s : State) : Host.Outcome State Fault Refusal :=
  let k := s.ccy.toNat / 1024
  .next { State.presTimes (k - s.timers.pres) s with timers := { s.timers with pres := max k s.timers.pres } }

/-- E(t) (R64). -/
def State.effPres (s : State) (n : Nat) : Nat :=
  match (s.tile n).owner with
  | .job jid => (match s.job? jid with
    | some j => (s.tile n).pres.toNat * 256 / j.weightOf
    | none => 0)
  | _ => 0

/-! Neighbours (R59, R66). -/

/-- The tile at an offset of n, when it lies in the mesh and in the polder of n. -/
def State.neighbour (s : State) (n : Nat) (dx dy : Int) : Option Nat :=
  let x : Int := n % 24 + dx
  let y : Int := (n / 24 : Nat) + dy
  if x < 0 || 24 ≤ x || y < 0 || 24 ≤ y then none
  else
    let k := (x + 24 * y).toNat
    if (s.polderOfTile k).map (·.1) == (s.polderOfTile n).map (·.1) then some k else none

/-- N, NE, E, SE, S, SW, W, NW (R66). -/
def ringOffsets : List (Int × Int) := [(0, -1), (1, -1), (1, 0), (1, 1), (0, 1), (-1, 1), (-1, 0), (-1, -1)]

/-- Edge neighbours inside the polder, by rising number. -/
def State.edgesOf (s : State) (n : Nat) : List Nat :=
  ([(0, -1), (-1, 0), (1, 0), (0, 1)] : List (Int × Int)).filterMap (fun d => s.neighbour n d.1 d.2)

/-- The marks of the ring of a tile for a job. -/
def State.ringMarks (s : State) (n jid : Nat) : List Bool :=
  ringOffsets.map (fun d => match s.neighbour n d.1 d.2 with
    | some k => (s.tile k).owner == Owner.job jid && !(s.tile k).dying
    | none => false)

/-- The maximal runs of marks from a position whose predecessor is unmarked, as lists of positions. -/
def runsFrom (m : List Bool) : List Nat → List (List Nat)
  | [] => []
  | i :: t =>
    let prev := m.getD ((i + 7) % 8) false
    let here := m.getD i false
    let run := ((List.range 8).map (fun k => (i + k) % 8)).takeWhile (fun k => m.getD k false)
    if here && !prev then run :: runsFrom m t else runsFrom m t

/-- T4 from the eight marks of a ring (R66): runs with N, E, S or W in them; a full ring is one run. -/
def t4Of (m : List Bool) : Nat :=
  if m.all id then 1 else ((runsFrom m (List.range 8)).filter (fun r => r.any (fun k => decide (k % 2 = 0)))).length

def State.t4 (s : State) (n jid : Nat) : Nat := t4Of (s.ringMarks n jid)

/-! Transfers (R69, R70, R37, R75, R77). -/

/-- What a tile without work of its own holds when it comes to a new owner: TENURE only (R70, R110, R256). -/
def Tile.wiped (t : Tile) : Tile :=
  { tenure := t.tenure, owner := t.owner, cess := t.cess, taint := t.taint, testing := t.testing, tested := t.tested, total := t.total }

/-- The owner of a tile changes, TENURE counting it. -/
def State.setOwner (s : State) (n : Nat) (o : Owner) : State :=
  let t := s.tile n
  s.setTile n { t with owner := o, tenure := t.tenure + 1, pres := 0, cess := none, idle := 0 }

/-- A tile becomes a job's: the job's record of its territory, and the upcall (kind 1 a gain, 4 a seed). -/
def State.gain (s : State) (n jid kind target : Nat) : State :=
  ((s.setOwner n (.job jid)).terrUpdate jid true [n] 1 0 0).makeUpcall jid kind n target

/-- A cession ends: b is A's (R70 step 3). -/
def State.transfer (s : State) (n : Nat) (from_ : Option Nat) (heir : Option Nat) (dst claim : Nat) : State :=
  let s := (s.setOwner n (.job dst)).terrUpdate dst true [n] 1 0 0
  let s := match from_ with
    | some b => s.terrUpdate b false [n] 0 1 0
    | none => s
  let s := s.makeUpcall dst 1 n claim
  match from_ with
  | some b => s.makeUpcall b 0 n (heir.getD ((s.tilesOf b).headD 0))
  | none => s

/-! Admission (R62). -/

/-- A tile that does not block a seed: unowned, alive, of the polder. -/
def State.seedable (s : State) (q n : Nat) : Bool :=
  (s.tile n).owner == Owner.unowned && !(s.tile n).dying && (s.polderOfTile n).any (fun p => decide (p.1 = q))

/-- A tile whose TENURE lets it change owner (R69). -/
def State.movable (s : State) (n : Nat) : Bool := decide ((s.tile n).tenure ≠ BitVec.allOnes 32)

/-- Distance of an unowned tile to the nearest blocking position. -/
def State.seedDist (s : State) (q n : Nat) : Nat :=
  let x := n % 24
  let y := n / 24
  let edge := min (min (x + 1) (y + 1)) (min (24 - x) (24 - y))
  ((List.range 576).filter (fun k => !s.seedable q k)).foldl (fun d k => min d (distance n k)) edge

/-- The seed of a polder: the greatest distance, ties to the lowest number. -/
def State.seedOf (s : State) (q : Nat) : Option Nat :=
  (((List.range 576).filter (fun n => s.seedable q n && s.movable n)).foldl (fun (best : Option (Nat × Nat)) n =>
    let d := s.seedDist q n
    match best with
    | some (_, e) => if e < d then some (n, d) else best
    | none => some (n, d)) none).map (·.1)

/-- Jobs without a seed get one, in increasing JOBID. -/
def State.admitJobs (s : State) : State :=
  let ids := sortBy (fun a b => decide (a < b)) ((s.jobs.filter (fun (e : Nat × Job) => e.2.unseeded && !e.2.destroying)).map (·.1))
  ids.foldl (fun s jid => match s.job? jid with
    | none => s
    | some j => match s.seedOf j.polder with
      | none => s
      | some n => (s.setJob jid { j with unseeded := false }).gain n jid 4 n) s

/-! Claims (R67, R68). -/

structure Claim where
  job : Nat
  tile : Nat
  e : Nat
  deriving DecidableEq, Repr

/-- The better of two claims of one job, or of two jobs: greater E, then the lower claiming tile. -/
def Claim.best : List Claim → Option Claim
  | [] => none
  | c :: t => match Claim.best t with
    | some d => if c.e < d.e || (c.e == d.e && d.tile < c.tile) then some d else some c
    | none => some c

/-- The claim of each job with an edge neighbour of a tile. -/
def State.claimsOn (s : State) (n : Nat) : List Claim :=
  let all := (s.edgesOf n).filterMap (fun k => match (s.tile k).owner with
    | .job a => if (s.tile n).owner == Owner.job a then none else some (Claim.mk a k (s.effPres k))
    | _ => none)
  ((all.map (·.job)).eraseDups).filterMap (fun a => Claim.best (all.filter (fun c => decide (c.job = a))))

/-- What deciding a phase carries on: TCOUNT of each job as changed by the moves decided so far, the moves, the refusals. -/
structure Deciding where
  counts : AMap Nat
  moves : List (Nat × Claim)
  refused : List Nat
  deriving DecidableEq, Repr

/-- One tile decided, its values as sampled in `s`. -/
def State.decideTile (s : State) (p : Polder) (d : Deciding) (n : Nat) : Deciding :=
  let t := s.tile n
  let cnt (j : Nat) : Nat := AMap.getD d.counts j 0
  let under (a : Nat) : Bool := (s.job? a).any (fun j => decide (cnt a < j.ceil))
  let hyst := p.bordercfg.toNat % 2 ^ 24
  let ok (c : Claim) : Bool := s.movable n && under c.job && (match t.owner with
    | .job b => decide (s.effPres n + hyst ≤ c.e) && (s.job? b).any (fun j => decide (j.floor < cnt b)) && !s.hostsConcurrent n
    | .unowned => decide (0 < c.e)
    | _ => false)
  if t.dying || t.cess.isSome then d
  else
    let cs := (s.claimsOn n).filter ok
    match t.owner with
    | .job b =>
      if cs.isEmpty then d
      else if s.t4 n b ≠ 1 then { d with refused := d.refused ++ [b] }
      else (match Claim.best cs with
        | some c => { d with moves := d.moves ++ [(n, c)]
                             counts := AMap.set (AMap.set d.counts b (cnt b - 1)) c.job (cnt c.job + 1) }
        | none => d)
    | .unowned =>
      (match Claim.best cs with
      | some c => { d with moves := d.moves ++ [(n, c)], counts := AMap.set d.counts c.job (cnt c.job + 1) }
      | none => d)
    | _ => d

/-- The class of a tile (R65). -/
def classOf (n : Nat) : Nat := n / 24 % 3 * 3 + n % 24 % 3

/-- A cession begins (R70, R71); a tile without owner is transferred at once. -/
def State.startMove (s : State) (start n : Nat) (c : Claim) : State :=
  let t := s.tile n
  match t.owner with
  | .job b =>
    let heir := (s.edgesOf n).find? (fun k => (s.tile k).owner == Owner.job b)
    (s.setTile n { t with cess := some { taker := some (c.job, c.tile), start := start, heir := heir } }).request n .territory
  | _ => s.transfer n none none c.job c.tile

/-- The claims of a phase decided and started in one polder. -/
def State.borderMoves (s : State) (q k start : Nat) (p : Polder) : State :=
  if p.bordercfg.getLsbD 31 then s
  else
    let counts := s.jobs.map (fun (e : Nat × Job) => (e.1, s.jcb e.2 0x204 2))
    let ns := (List.range 576).filter (fun n => decide (classOf n = k) && (s.polderOfTile n).any (fun x => decide (x.1 = q)))
    let d := ns.foldl (s.decideTile p) ⟨counts, [], []⟩
    let s := d.refused.foldl (fun s b => s.terrUpdate b true [] 0 0 1) s
    d.moves.foldl (fun s m => s.startMove start m.1 m.2) s

/-- What takes effect at the start of a border round: BORDERCFG, and FLOOR, CEIL and WEIGHT (R36, R60). -/
def State.latchRound (s : State) : State :=
  { s with
    polders := s.polders.map (fun (e : Nat × Polder) => (e.1, { e.2 with bordercfg := e.2.borderNew }))
    jobs := s.jobs.map (fun (e : Nat × Job) => (e.1, { e.2 with
      floor := s.jcb e.2 0x104 2
      ceil := s.jcb e.2 0x106 2
      weight := s.jcb e.2 0x108 1 })) }

def execBorderPhaseStart (s : State) : Host.Outcome State Fault Refusal :=
  let k := s.ccy.toNat / 16384
  if k ≤ s.timers.phase then .next s
  else
    let s := { s with timers := { s.timers with phase := k } }
    let s := if k % 9 = 0 then s.latchRound else s
    let s := s.admitJobs
    .next (s.polders.foldl (fun s (e : Nat × Polder) => s.borderMoves e.1 (k % 9) (16384 * k) e.2) s)

/-! Wipe (R70, R71). -/

/-- Nothing of the owner is left to save on a tile. -/
def State.evicted (s : State) (n : Nat) : Bool := (s.tile n).run.isNone && (s.tile n).saved.isNone && (s.tile n).root.isNone

/-- A tile whose eviction is complete and whose wipe may start. -/
def State.wipeReady (s : State) (n : Nat) : Bool :=
  match (s.tile n).cess with
  | some c => c.wiping.isNone && s.evicted n && !s.scratchBusy n && (c.taker.isNone || decide (s.ccy.toNat ≤ c.start + 12224))
  | none => false

/-- The rest of the eviction, and the start of the wipe: frozen requests of the scratchpad fail, the deque goes, dirty lines go home,
the FIFO to the engines; the tile is in transit and clean but for TENURE. -/
def execWipeStart (tile : Nat) (s : State) : Host.Outcome State Fault Refusal :=
  if !s.wipeReady tile then .next s
  else
    let jid := match (s.tile tile).owner with
      | .job j | .transit j => j
      | _ => 0
    let s := ((((s.failFrozen tile).evictDeque tile jid).acceptAll tile).cleanAll tile).coolTile tile
    let t := s.tile tile
    .next (s.setTile tile { t.wiped with owner := .transit jid, meter := t.meter
                                         cess := t.cess.map (fun c => { c with wiping := some s.ccy.toNat }) })

/-- An eviction not complete by cycle 12,224 of its phase. -/
def State.tooLate (s : State) (n : Nat) : Bool :=
  match (s.tile n).cess with
  | some c => c.taker.isSome && c.wiping.isNone && decide (c.start + 12224 < s.ccy.toNat)
  | none => false

def execCessionAbandon (tile : Nat) (s : State) : Host.Outcome State Fault Refusal :=
  if !s.tooLate tile then .next s
  else
    let t := s.tile tile
    .next (s.setTile tile { t with cess := none, run := t.run.map (fun (r : Run) =>
      { r with reqs := r.reqs.filter (fun q => q.src != .territory) }) })

/-- A wipe has run its 4,096 cycles (log 33). -/
def State.wipeOver (s : State) (n : Nat) : Bool :=
  match (s.tile n).cess with
  | some c => c.wiping.any (fun w => decide (w + 4096 ≤ s.ccy.toNat)) && s.movable n
  | none => false

/-- Local sums of a tile go to its owner's block before it leaves (R351). -/
def State.flushTile (s : State) (n jid : Nat) : State :=
  match s.job? jid with
  | none => s
  | some j =>
    let s := (s.tile n).meter.foldl (fun s c => s.addCounter j c.1 c.2) s
    s.setTile n { s.tile n with meter := [] }

/-- A wiped tile becomes unowned: of a split, whose job hears of it as a whole, of a destroyed job, or on its way to a destroyed
job (R78, R364). -/
def State.unown (s : State) (n b : Nat) (c : Cession) : State :=
  let s := s.setOwner n .unowned
  match s.job? b with
  | none => s
  | some j =>
    if j.destroying || j.splits.any (fun x => x.gone.contains n) then s
    else (s.terrUpdate b false [n] 0 1 0).makeUpcall b 0 n (c.heir.getD ((s.tilesOf b).headD 0))

def execWipeComplete (tile : Nat) (s : State) : Host.Outcome State Fault Refusal :=
  if !s.wipeOver tile then .next s
  else
    match (s.tile tile).owner, (s.tile tile).cess with
    | .transit b, some c =>
      let s := s.flushTile tile b
      (match c.taker with
      | some (a, k) => .next (s.transfer tile (some b) c.heir a k)
      | none => .next (s.unown tile b c))
    | _, _ => .next s

/-! Dead tiles (R78, R339). -/

def execTileDead (tile : Nat) (s : State) : Host.Outcome State Fault Refusal := .next (s.markDead tile)

/-- The tiles of a list joined to a set by edges, grown n times. -/
def grow (own : List Nat) (adj : Nat → List Nat) : Nat → List Nat → List Nat
  | 0, c => c
  | n + 1, c =>
    let more := own.filter (fun k => !c.contains k && (adj k).any (fun m => c.contains m))
    if more.isEmpty then c else grow own adj n (c ++ more)

/-- The 4-connected components of some tiles, each rising, the one with the lowest tile first. -/
def components (adj : Nat → List Nat) : Nat → List Nat → List (List Nat)
  | 0, _ => []
  | _, [] => []
  | n + 1, k :: t =>
    let c := sortBy (fun a b => decide (a < b)) (grow t adj t.length [k])
    c :: components adj n (t.filter (fun x => !c.contains x))

/-- The largest component, the first of those. -/
def largest : List (List Nat) → List Nat
  | [] => []
  | c :: t => let d := largest t
              if c.length < d.length then d else c

/-- A discarded tile goes into transit, its tasks are evicted (R78). DESIGN CHOICE (log 111): R78 puts transit first, R71 lets a task
go on to the boundary that prel allows, R61 has a tile in transit run nothing; the tile is in transit at once, and a task held by
LATCH goes on to its boundary. -/
def State.discard (s : State) (n jid : Nat) : State :=
  let s := match s.concurrentOn n with
    | some (a, b) => s.unplace a b
    | none => s
  let t := s.tile n
  (s.setTile n { t with owner := .transit jid, pres := 0, cess := some { taker := none, start := s.ccy.toNat } }).requestOn n .territory

/-- The job learns what a dead tile has cost it (R37, R75). A discarded tile that it has gained again since stays in its map. -/
def State.reportLoss (s : State) (jid dead : Nat) (gone : List Nat) : State :=
  let ns := dead :: gone
  let s := s.terrUpdate jid false ns 0 ns.length 0
  let s := match s.job? jid with
    | some j => (gone.filter (fun n => (s.tile n).owner == Owner.job jid)).foldl (fun (s : State) n => s.mapTile j true n) s
    | none => s
  s.makeUpcall jid (if gone.isEmpty then 2 else 3) dead ((s.tilesOf jid).headD 0)

/-- The effect of a dead tile on territories at the end of its phase; another one marked dead by then is no part of a component.
Records put on its deque meanwhile are requeued. -/
def State.deadEnd (s : State) (n : Nat) : State :=
  let t := s.tile n
  let s0 := match t.owner with
    | .job j => s.flushTile n j
    | .transit j => s.flushTile n j
    | _ => s
  let s := s0.setTile n { s0.tile n with owner := .dead, dying := false, pres := 0, cess := none, deque := [] }
  match t.owner with
  | .job jid =>
    let s := t.deque.foldl (fun (s : State) r => s.moveReady jid n r false) s
    let own := (s.tilesOf jid).filter (fun k => !(s.tile k).dying)
    let keep := largest (components s.edgesOf own.length own)
    let gone := own.filter (fun k => !keep.contains k)
    let s := gone.foldl (fun s k => s.discard k jid) s
    let s := if gone.isEmpty then s.reportLoss jid n [] else match s.job? jid with
      | some j => s.setJob jid { j with splits := j.splits ++ [Split.mk n gone] }
      | none => s
    (match s.job? jid with
    | some j => if (s.tilesOf jid).isEmpty then s.setJob jid { j with unseeded := true } else s
    | none => s)
  | _ => s

/-- The phase in which a tile died is over. -/
def State.phaseOver (s : State) : Bool := decide (s.timers.phase < s.ccy.toNat / 16384)

def execDeadTilePhaseEnd (tile : Nat) (s : State) : Host.Outcome State Fault Refusal :=
  if (s.tile tile).dying && s.phaseOver then .next (s.deadEnd tile) else .next s

/-- The first split of a job none of whose tiles is still in transit. -/
def State.splitOver (s : State) (j : Job) : Option Split :=
  j.splits.find? (fun x => x.gone.all (fun n => match (s.tile n).owner with
    | .transit _ => !s.movable n
    | _ => true))

def execSplitRelease (job : Nat) (s : State) : Host.Outcome State Fault Refusal :=
  match s.job? job with
  | none => .next s
  | some j =>
    match s.splitOver j with
    | none => .next s
    | some x => .next ((s.setJob job { j with splits := j.splits.erase x }).reportLoss job x.dead x.gone)

end Sys2Proof.Machine
end

