-- ==== Sys2Proof/Machine/Collect.lean ====
section
/-! DEFINITION. Collect.lean: collectives. Commands at a collective port (R377), start and commit (R378), the reduction tree
(R379), messages of other ranks, failure (R380). -/
namespace Sys2Proof.Machine

/-! A command's fields (R377). -/

def Coll.src (c : Coll) : Nat := fieldAt c.cmd 0 8
def Coll.dst (c : Coll) : Nat := fieldAt c.cmd 8 8
def Coll.tag (c : Coll) : Nat := fieldAt c.cmd 16 8
def Coll.stat (c : Coll) : Nat := fieldAt c.cmd 24 8
def Coll.count (c : Coll) : Nat := fieldAt c.cmd 32 4
/-- 1 allreduce, 2 reduce, 3 broadcast. -/
def Coll.op (c : Coll) : Nat := fieldAt c.cmd 36 1
def Coll.rop (c : Coll) : RedOp := RedOp.ofCode (fieldAt c.cmd 37 1)
def Coll.ty (c : Coll) : Ty := Ty.ofCode (BitVec.ofNat 4 (fieldAt c.cmd 38 1))
def Coll.md (c : Coll) : Rnd := Rnd.ofCode (BitVec.ofNat 4 (fieldAt c.cmd 39 1)) 0
def Coll.bytes (c : Coll) : Nat := c.count * (c.ty.bits / 8)

/-- What the matched commands of all ranks agree in (R378). -/
def Coll.sig (c : Coll) : CollSig := ⟨c.op, fieldAt c.cmd 37 1, fieldAt c.cmd 38 1, fieldAt c.cmd 39 1, c.count⟩
def Group.size (g : Group) : Nat := g.table.length

/-- The limits of R377. -/
def State.collOk (s : State) (jid : Nat) (b : List Byte) : Bool :=
  let src := fieldAt b 0 8
  let dst := fieldAt b 8 8
  let n := fieldAt b 32 4
  let op := fieldAt b 36 1
  let rop := fieldAt b 37 1
  let tc := fieldAt b 38 1
  let md := fieldAt b 39 1
  let ty := Ty.ofCode (BitVec.ofNat 4 tc)
  let len := n * (ty.bits / 8)
  let arith := decide (rop < 3)
  decide (src % 128 = 0) && decide (dst % 128 = 0) && decide (src < 2 ^ 60) && decide (dst < 2 ^ 60)
    && (src == dst || decide (src + len ≤ dst) || decide (dst + len ≤ src))
    && decide (1 ≤ n) && decide (n ≤ 2 ^ 28) && decide (1 ≤ op) && decide (op ≤ 3)
    && (if op = 3 then rop == 0 else decide (rop ≤ 5))
    && (if arith then decide (tc ≤ 10) else decide (tc ≤ 7))
    && (if rop = 0 && op != 3 && decide (8 ≤ tc) then decide (md ≤ 4) else md == 0)
    && (s.group? (fieldAt b 40 2)).any (fun g => decide (g.job = jid)) && decide (fieldAt b 42 22 = 0)

/-! The collective port. -/

/-- The command at the front of a collective port, while its stream is not contained (R335). -/
def State.collFront (s : State) (jid sn : Nat) : Option (List Byte) :=
  match s.job? jid with
  | some j => if (j.stream sn).containing then none else (j.stream sn).cqueue.head?.map (·.bytes)
  | none => none

def State.popColl (s : State) (jid sn : Nat) : State :=
  match s.job? jid with
  | some j => let x := j.stream sn
              s.setJob jid (j.setStream sn { x with cqueue := x.cqueue.drop 1 })
  | none => s

/-! Folding (R379). -/

/-- Children of a rank in a tree of n. -/
def childrenOf (rank n : Nat) : List Nat := [2 * rank + 1, 2 * rank + 2].filter (fun c => decide (c < n))

/-- Two lists of elements combined, one step of R187 each. -/
def foldVals (op : RedOp) (ty : Ty) (md : Rnd) (a b : List Word) : List Word :=
  (a.zip b).map (fun x => word (redStep op ty md x.1.toNat x.2.toNat))

/-- Sub(i), once the rank's own elements and its children's subtrees are there. -/
def Coll.sub (c : Coll) (rank n : Nat) : Option (List Word) :=
  if !c.started then none
  else (childrenOf rank n).foldl (fun (acc : Option (List Word)) k =>
    match acc, c.subs.find? (fun e => decide (e.1 = k)) with
    | some v, some e => some (foldVals c.rop c.ty c.md v e.2)
    | _, _ => none) (some c.own)

/-- Ranks that must acknowledge the result before the announcement (R378). -/
def Coll.needAcks (c : Coll) (n : Nat) : List Nat := if c.op = 2 then [] else (List.range n).drop 1

/-- The rank writes DST. -/
def Coll.writes (c : Coll) (rank : Nat) : Bool := c.op != 2 || rank == 0

/-- What rank 0 and the others conclude from what has arrived: the result, the announcement, which is not made of a collective that has
failed (R380). -/
def Coll.settle (c : Coll) (rank n : Nat) : Coll :=
  if rank ≠ 0 then c
  else
    let r := match c.result with
      | some r => some r
      | none => if c.op = 3 then (if c.started then some c.own else none) else c.sub 0 n
    let c := { c with result := r }
    if r.isSome && !c.failed && (c.needAcks n).all (fun k => c.acks.contains k) then { c with announced := true } else c

/-! Messages (log 44). -/

/-- A message taken by its collective; a repeated one changes nothing. -/
def Coll.take (c : Coll) (m : CollMsg) : Coll :=
  match m with
  | .subtree r v => if c.announced || c.op = 3 || c.subs.any (fun e => decide (e.1 = r)) then c
                    else { c with subs := c.subs ++ [(r, v)] }
  | .result v => if c.result.isSome then c else { c with result := some v }
  | .ack r => { c with acks := NSet.insert r c.acks }
  | .announce => { c with announced := true }
  | .failed => if c.announced then c else { c with failed := true }

/-- The same for a message of a command with certain fields: one that differs from the rank's own fails it (R378). -/
def Coll.receive (c : Coll) (rank n : Nat) (sig : CollSig) (m : CollMsg) : Coll :=
  if sig = c.sig then (c.take m).settle rank n else if c.announced then c else { c with failed := true }

/-- Payload bytes of a message (log 44). -/
def msgPayload (sig : CollSig) : CollMsg → Nat
  | .subtree _ v | .result v => (Ty.ofCode (BitVec.ofNat 4 sig.ty)).bits / 8 * v.length
  | _ => 0

/-- A message of the k-th collective given to the rank's k-th, or kept until the rank has issued it (R378). -/
def State.collMessage (s : State) (g : Group) (m : CollPost) : State :=
  if g.issued < m.k then s.setGroup { g with early := g.early ++ [m] }
  else match s.job? g.job with
    | none => s
    | some j => s.setJob g.job { j with colls := j.colls.map (fun (c : Coll) =>
        if c.group = g.num && c.k = m.k then c.receive g.rank g.size m.sig m.msg else c) }

/-- Messages that came early are offered again. -/
def State.retryEarly (s : State) (num : Nat) : State :=
  match s.group? num with
  | none => s
  | some g => g.early.foldl (fun s m => match s.group? num with
    | some g => s.collMessage g m
    | none => s) (s.setGroup { g with early := [] })

/-! Acceptance. -/

def State.collCodes (s : State) (jid sn : Nat) (j : Job) (c : List Byte) : List Nat :=
  codeIf (!s.collOk jid c) 0x100 ++ codeIf (!(j.stream sn).opened) 0x104 ++
    codeIf (decide (2 ^ 48 - 1 ≤ (j.stream sn).tail)) 0x109

/-- A collective accepted: it takes the next ticket of the stream. -/
def State.acceptColl (s : State) (jid sn : Nat) (j : Job) (c : List Byte) : State :=
  let x := j.stream sn
  let num := fieldAt c 40 2
  let k := ((s.group? num).map (·.issued)).getD 0 + 1
  let coll : Coll := { stream := sn, ticket := x.tail + 1, cmd := c, group := num, k := k, failed := (s.group? num).any (·.lost) }
  let s := match s.group? num with
    | some g => s.setGroup { g with issued := k }
    | none => s
  let s := s.setJob jid { (j.setStream sn { x with tail := x.tail + 1 }) with colls := j.colls ++ [coll] }
  (s.writeStatus jid sn (cmdStat c) 0 noGang (x.tail + 1) (cmdTag c)).retryEarly coll.group

/-- The command at the front of a collective port served, when its operation is one of `ops`. -/
def State.serveColl (s : State) (jid sn : Nat) (ops : Nat → Bool) : State :=
  match s.collFront jid sn, s.job? jid with
  | some c, some j =>
    if !ops (fieldAt c 36 1) then s
    else
      let s := s.popColl jid sn
      (match statOk (cmdStat c), lowest (s.collCodes jid sn j c), s.job? jid with
      | false, _, _ => s.badWrite jid sn
      | true, some k, _ => s.writeStatus jid sn (cmdStat c) k noGang 0 (cmdTag c)
      | true, none, some j => s.acceptColl jid sn j c
      | true, none, none => s)
  | _, _ => s

/-- Allreduce, and a reserved operation, which is rejected. -/
def execCollectiveAllreduce (job stream : Nat) (s : State) : Host.Outcome State Fault Refusal :=
  .next (s.serveColl job stream (fun o => o != 2 && o != 3))

def execCollectiveReduce (job stream : Nat) (s : State) : Host.Outcome State Fault Refusal :=
  .next (s.serveColl job stream (fun o => o == 2))

def execCollectiveBroadcast (job stream : Nat) (s : State) : Host.Outcome State Fault Refusal :=
  .next (s.serveColl job stream (fun o => o == 3))

/-! Start, commit, failure. -/

/-- The collective that is its stream's head. -/
def State.headColl (s : State) (jid sn : Nat) : Option Coll :=
  match s.job? jid with
  | some j => if (j.stream sn).opened then
      j.colls.find? (fun c => decide (c.stream = sn) && decide (c.ticket = (j.stream sn).head)) else none
  | none => none

def State.putColl (s : State) (jid : Nat) (c : Coll) : State :=
  match s.job? jid with
  | some j => s.setJob jid { j with colls := j.colls.map (fun (x : Coll) =>
      if x.stream = c.stream && x.ticket = c.ticket then c else x) }
  | none => s

def State.dropColl (s : State) (jid : Nat) (c : Coll) : State :=
  match s.job? jid with
  | some j => s.setJob jid { j with colls := j.colls.filter (fun x => !(decide (x.stream = c.stream) && decide (x.ticket = c.ticket))) }
  | none => s

/-- A collective ends FAILED and its stream is contained from its ticket (R380, R335). -/
def State.failColl (s : State) (jid : Nat) (c : Coll) : State :=
  let s := s.dropColl jid c
  let s := match s.job? jid with
    | some j => s.setJob jid (j.loseTicket c.stream c.ticket)
    | none => s
  let s := s.writeStatus jid c.stream c.stat 0x200 noGang c.ticket c.tag
  match s.job? jid with
  | none => s
  | some j =>
    let hit := (j.gangs.filter (fun (e : Nat × Gang) => e.2.live && decide
      ((e.2.stream = c.stream ∧ c.ticket < e.2.ticket) ∨ (e.2.desc.aftv = true ∧ e.2.desc.afts = c.stream ∧
        e.2.desc.afttk = c.ticket ∧ e.2.phase = .waiting ∧ e.2.aftEpoch = (j.stream c.stream).epoch)))).map (·.1)
    let s := hit.foldl (fun s k => s.contain jid k 0x201) (s.flushColls jid c.stream c.ticket)
    let s := match s.job? jid with
      | some j => let x := j.stream c.stream
                  s.setJob jid (j.setStream c.stream { x with containing := x.opened })
      | none => s
    (s.fixHead jid c.stream).swapTable c.group

/-- Elements of SRC. -/
def elemsOf (n : Nat) (bs : List Byte) : Nat → List Word
  | 0 => []
  | k + 1 => word (leVal (bs.take n)) :: elemsOf n (bs.drop n) k

/-- Bytes sent to or received from the fabric for a job (R351). -/
def State.countFabric (s : State) (jid k n : Nat) : State :=
  match s.job? jid with
  | some j => s.addCounter j k n
  | none => s

/-- A rank above 0 sends its subtree to its parent once it is complete; rank 0 sends the result to those that need it (R378,
R379). -/
def State.sendSub (s : State) (jid : Nat) (before after : Coll) (rank n : Nat) : State :=
  if rank = 0 && before.result.isNone && after.result.isSome then s.countFabric jid 35 (after.bytes * (after.needAcks n).length)
  else if rank ≠ 0 && after.op ≠ 3 && (before.sub rank n).isNone && (after.sub rank n).isSome then s.countFabric jid 35 after.bytes else s

def execCollectiveStart (job stream : Nat) (s : State) : Host.Outcome State Fault Refusal :=
  match s.headColl job stream with
  | none => .next s
  | some c =>
    if c.started || c.failed then .next s
    else match s.group? c.group with
      | none => .next (s.failColl job c)
      | some g =>
        let reads := c.op != 3 || g.rank == 0
        let s := s.dhDrain
        if reads && s.devBad job (s.jobSite job) c.src c.bytes accLoad then .next (s.failColl job c)
        else match s.devRead job (s.jobSite job) c.src (if reads then c.bytes else 0) accLoad with
          | .error _ => .next (s.failColl job c)
          | .ok (s, bs) =>
            let c' := { c with started := true, own := if reads then elemsOf (c.ty.bits / 8) bs c.count else [] }.settle g.rank g.size
            .next ((s.putColl job c').sendSub job c c' g.rank g.size)

/-- A collective at the head that may end: announced, or failed. -/
def Coll.over (c : Coll) (rank : Nat) : Bool := c.failed || (c.started && c.announced && (c.result.isSome || !c.writes rank))

/-- The commit (R378): DST written, HEAD advances; or the end FAILED. -/
def execCollectiveCommit (job stream : Nat) (s : State) : Host.Outcome State Fault Refusal :=
  match s.headColl job stream with
  | none => .next s
  | some c =>
    match s.group? c.group with
    | none => .next (s.failColl job c)
    | some g =>
      if c.failed && !c.announced then .next (s.failColl job c)
      else if !c.over g.rank then .next s
      else
        let out := (c.result.getD []).flatMap (fun w => leBytes (c.ty.bits / 8) w.toNat)
        match (if c.writes g.rank then s.devWrite job (s.jobSite job) c.dst accStore out else .ok s) with
        | .error _ => .next (s.failColl job c)
        | .ok s =>
          let s := (s.dhDrain.dropColl job c).fixHead job stream
          .next ((s.writeStatus job stream c.stat 1 noGang c.ticket c.tag).swapTable c.group)

/-- A message of another rank's k-th collective (R378, R379). -/
def execCollectiveMessageArrival (group : Nat) (post : CollPost) (s : State) : Host.Outcome State Fault Refusal :=
  match s.group? group with
  | none => .next s
  | some g =>
    let s := s.countFabric g.job 36 (msgPayload post.sig post.msg)
    let before := ((s.job? g.job).map (·.colls)).getD []
    let s := s.collMessage g post
    let after := ((s.job? g.job).map (·.colls)).getD []
    .next ((before.zip after).foldl (fun s e => s.sendSub g.job e.1 e.2 g.rank g.size) s)

end Sys2Proof.Machine
end

