-- ==== Sys2Proof/Machine/Control.lean ====
section
/-! DEFINITION. Control.lean: nop, transfers of control, traps and returns, control registers, identity, time and territory
(R103, R136, R154 to R157, R161 to R166). -/
namespace Sys2Proof.Machine

def execNop (p : Pred) : State → Host.Outcome State Fault Refusal :=
  perform (whole p (pure .next))

/-! Transfers (R154). -/

/-- The target of a format J instruction at `pc` (R93). -/
def targetJ (pc : Word) (slot : Fin 5) (disp : BitVec 40) : Word :=
  (pc - word (pc.toNat % 64)) + (disp.signExtend 64) * 64 + word (12 * slot.val)

/-- Control passes to a checked target, registers written after the check. -/
def jump (target : Word) (write : M Unit) : M Flow := do
  checkTarget target
  write
  pure (.goto target)

def execBr (p : Pred) (slot : Fin 5) (disp : BitVec 40) : State → Host.Outcome State Fault Refusal :=
  perform (whole p do
    let r ← runM
    jump (targetJ r.pc slot disp) (pure ()))

def execCall (p : Pred) (d : WReg) (slot : Fin 5) (disp : BitVec 40) : State → Host.Outcome State Fault Refusal :=
  perform (whole p do
    let r ← runM
    jump (targetJ r.pc slot disp) (wrW d (nextPc r.pc)))

def execLoop (p : Pred) (a : WReg) (slot : Fin 5) (disp : BitVec 40) : State → Host.Outcome State Fault Refusal :=
  perform (whole p do
    let r ← runM
    let c := (← rdW a) - 1
    let target := if c = 0 then nextPc r.pc else targetJ r.pc slot disp
    if target = nextPc r.pc then do
      wrW a c
      pure .next
    else jump target (wrW a c))

def execJr (p : Pred) (link : Option WReg) (a : WReg) : State → Host.Outcome State Fault Refusal :=
  perform (whole p do
    let r ← runM
    let target ← rdW a
    jump target (match link with
      | some d => wrW d (nextPc r.pc)
      | none => pure ()))

def execRet (p : Pred) (a : WReg) : State → Host.Outcome State Fault Refusal :=
  perform (whole p do
    let target ← rdW a
    jump target (pure ()))

/-! Traps and returns. -/

def execTrap (p : Pred) (code : BitVec 16) : State → Host.Outcome State Fault Refusal :=
  perform (whole p (trap 0x13 (code.setWidth 64)))

def execEret (p : Pred) : State → Host.Outcome State Fault Refusal := perform (whole p supReturn)
def execUret (p : Pred) : State → Host.Outcome State Fault Refusal := perform (whole p trapReturn)

/-! Control registers (R136, R161). -/

/-- The workspace-resident control registers: offset, and the bits mtc writes, none when only hardware does. -/
def ctlReg : Nat → Option (Nat × Option Word)
  | 0x002 => some (cTRAPVEC, some (word (2 ^ 64 - 1)))
  | 0x003 => some (cTCAUSE, some (word (2 ^ 63 + 63)))
  | 0x004 => some (cTPC, some (word (2 ^ 64 - 1)))
  | 0x005 => some (cTVAL, some (word (2 ^ 64 - 1)))
  | 0x008 => some (cFPFLAGS, some 63)
  | 0x030 => some (cSBCFG 0, none)
  | 0x031 => some (cSBCFG 1, none)
  | 0x032 => some (cSBCFG 2, none)
  | 0x033 => some (cSBCFG 3, none)
  | _ => none

/-- QUANTUM: the length in [16:0], the index in [63:32]; zero without DSM (R136). -/
def quantumReg (g : Option Gang) : Word :=
  match g with
  | some g => if g.desc.dsm then word (2 ^ g.desc.qlog2 + g.quantum % 2 ^ 32 * 2 ^ 32) else 0
  | none => 0

/-- Registers outside the workspace that movc reads (R136, R323); none for a number that is not listed, or that needs
supervisor mode. -/
def otherReg (s : State) (t : Tile) (r : Run) (g : Option Gang) : Nat → Option Word
  | 0x000 => some t.wp
  | 0x001 => some r.pc
  | 0x010 => some (word (((g.map (·.ticket)).getD 0) % 2 ^ 48))
  | 0x011 => some (word (((g.map (·.stream)).getD 0) % 16))
  | 0x012 => some (r.rcd.gang.setWidth 64)
  | 0x013 => some (word r.taskAddr)
  | 0x014 => some (r.rcd.lin.extractLsb' 0 64)
  | 0x015 => some (r.rcd.lin.extractLsb' 64 64)
  | 0x016 => some (r.rcd.stage.setWidth 64)
  | 0x017 => some (t.strip.setWidth 64)
  | 0x018 => some (word r.job)
  | 0x019 => some (word s.cur)
  | 0x020 => some (t.tenure.setWidth 64)
  | 0x021 => some (t.pres.setWidth 64)
  | 0x028 => some s.ccy
  | 0x029 => some (quantumReg g)
  | 0x100 => if r.sup then some t.sepc else none
  | 0x101 => if r.sup then some t.sstat else none
  | _ => none

/-- The tile register a control-register number configures (0x040 to 0x047). -/
def tcfgReg (n : Nat) : Option TReg := if h : 0x040 ≤ n ∧ n < 0x048 then some ⟨n - 0x040, by omega⟩ else none

def execMovc (p : Pred) (d : WReg) (creg : BitVec 12) : State → Host.Outcome State Fault Refusal :=
  perform (whole p do
    let r ← runM
    match ctlReg creg.toNat, tcfgReg creg.toNat with
    | some (o, _), _ => do
      let t ← tileM
      regBytes (t.base + o) 8
      wrW d (t.ctl o &&& ctlMask o)
      pure .next
    | none, some k => do
      prepM
      let t ← tileM
      if t.cfgBad [k] then fail .ue
      else do
        wrW d (t.tcfg k)
        pure .next
    | none, none => do
      let g ← gangM
      match otherReg (← get) (← tileM) r g creg.toNat with
      | some v => do
        wrW d v
        pure .next
      | none => illegal)

def execMtc (p : Pred) (a : WReg) (creg : BitVec 12) : State → Host.Outcome State Fault Refusal :=
  perform (whole p do
    let r ← runM
    let v ← rdW a
    match ctlReg creg.toNat, tcfgReg creg.toNat with
    | some (o, some m), _ => do
      modTile (fun t => t.setCtl o ((t.ctl o &&& ~~~m) ||| (v &&& m)))
      pure .next
    | some (_, none), _ => illegal
    | none, some k => do
      prepM
      modTile (fun t => t.setTcfg k v)
      pure .next
    | none, none =>
      if creg.toNat = 0x017 then do
        modTile (fun t => { t with strip := v.setWidth 16 })
        pure .next
      else if creg.toNat = 0x100 && r.sup then do
        modTile (fun t => { t with sepc := v })
        pure .next
      else if creg.toNat = 0x101 && r.sup then do
        modTile (fun t => { t with sstat := (t.sstat &&& ~~~1) ||| (v &&& 1) })
        pure .next
      else illegal)

def execWpsw (p : Pred) (d a : WReg) : State → Host.Outcome State Fault Refusal :=
  perform (whole p do
    let r ← runM
    if !r.sup then illegal
    else do
      let new ← rdW a
      let s ← get
      if new.toNat % 256 ≠ 0 || s.spSize s.cur < new.toNat + 0x1800 then trap 0x06 new
      else do
        let old := (← tileM).wp
        modTile (fun t => { t with wp := new }.asWorkspace)
        wrW d old
        pure .next)

def execPrel (p : Pred) (n : BitVec 9) : State → Host.Outcome State Fault Refusal :=
  perform (whole p do
    let r ← runM
    let t ← tileM
    (if n = 0 then pure () else regBytes (t.base + cLATCH) 8)
    if n = 0 then do
      modTile (fun t => t.setCtl cLATCH 0)
      pure .next
    else if t.ctl cLATCH = 0 && r.reqs.isEmpty then do
      modTile (fun t => t.setCtl cLATCH (n.setWidth 64))
      pure .next
    else pure .next)

/-! Identity, time and territory (R164 to R166). -/

/-- The value rdid selects (R164). -/
def idValue (tile : Nat) (r : Record) : Nat → Nat
  | 0 => tile
  | 1 => tile % 24
  | 2 => tile / 24
  | 3 => dieOf tile
  | 4 => quadOf tile
  | 5 => r.depth
  | 6 => linLevel r.lin r.depth
  | 7 => r.rootw
  | _ => r.rootIndex

def execRdid (p : Pred) (d : WReg) (sel : BitVec 4) : State → Host.Outcome State Fault Refusal :=
  perform (whole p do
    let r ← runM
    wrW d (word (idValue (← get).cur r.rcd sel.toNat))
    pure .next)

def execRdccy (p : Pred) (d : WReg) : State → Host.Outcome State Fault Refusal :=
  perform (whole p do
    wrW d (← get).ccy
    pure .next)

/-- What rdterr reads of a tile for a job (R165). -/
def terrValue (s : State) (jid : Nat) (polder : Nat) (n : Nat) : Word :=
  if Config.nTiles ≤ n then 0
  else
    let t := s.tile n
    if t.owner = .job jid then word (t.tenure.toNat * 2 ^ 32 + t.pres.toNat * 2 ^ 16 + 1)
    else if t.owner = .dead ∨ (s.polderOfTile n).map (·.1) ≠ some polder then 2
    else 0

def execRdterr (p : Pred) (d a : WReg) (mode : Bool) : State → Host.Outcome State Fault Refusal :=
  perform (whole p do
    let r ← runM
    let s ← get
    match s.job? r.job with
    | none => illegal
    | some j =>
      if mode then do
        wrW d (word (s.jcb j 0x204 2 * 2 ^ 32 + s.jcb j 0x200 4))
        pure .next
      else do
        let n ← rdW a
        wrW d (terrValue s r.job j.polder n.toNat)
        pure .next)

end Sys2Proof.Machine
end

