-- ==== Sys2Proof/Machine/Hash.lean ====
section
/-! DEFINITION. Hash.lean: SHA-512 (PRESUMED, log 48: FIPS 180-4, which the manual names and does not restate), measurement
registers (R382), signatures over reports (R352, R381). -/
namespace Sys2Proof.Machine

/-! SHA-512. -/

def shaK0 : List Word := [
  0x428A2F98D728AE22, 0x7137449123EF65CD, 0xB5C0FBCFEC4D3B2F, 0xE9B5DBA58189DBBC,
  0x3956C25BF348B538, 0x59F111F1B605D019, 0x923F82A4AF194F9B, 0xAB1C5ED5DA6D8118,
  0xD807AA98A3030242, 0x12835B0145706FBE, 0x243185BE4EE4B28C, 0x550C7DC3D5FFB4E2,
  0x72BE5D74F27B896F, 0x80DEB1FE3B1696B1, 0x9BDC06A725C71235, 0xC19BF174CF692694,
  0xE49B69C19EF14AD2, 0xEFBE4786384F25E3, 0x0FC19DC68B8CD5B5, 0x240CA1CC77AC9C65]

def shaK1 : List Word := [
  0x2DE92C6F592B0275, 0x4A7484AA6EA6E483, 0x5CB0A9DCBD41FBD4, 0x76F988DA831153B5,
  0x983E5152EE66DFAB, 0xA831C66D2DB43210, 0xB00327C898FB213F, 0xBF597FC7BEEF0EE4,
  0xC6E00BF33DA88FC2, 0xD5A79147930AA725, 0x06CA6351E003826F, 0x142929670A0E6E70,
  0x27B70A8546D22FFC, 0x2E1B21385C26C926, 0x4D2C6DFC5AC42AED, 0x53380D139D95B3DF,
  0x650A73548BAF63DE, 0x766A0ABB3C77B2A8, 0x81C2C92E47EDAEE6, 0x92722C851482353B]

def shaK2 : List Word := [
  0xA2BFE8A14CF10364, 0xA81A664BBC423001, 0xC24B8B70D0F89791, 0xC76C51A30654BE30,
  0xD192E819D6EF5218, 0xD69906245565A910, 0xF40E35855771202A, 0x106AA07032BBD1B8,
  0x19A4C116B8D2D0C8, 0x1E376C085141AB53, 0x2748774CDF8EEB99, 0x34B0BCB5E19B48A8,
  0x391C0CB3C5C95A63, 0x4ED8AA4AE3418ACB, 0x5B9CCA4F7763E373, 0x682E6FF3D6B2B8A3,
  0x748F82EE5DEFB2FC, 0x78A5636F43172F60, 0x84C87814A1F0AB72, 0x8CC702081A6439EC]

def shaK3 : List Word := [
  0x90BEFFFA23631E28, 0xA4506CEBDE82BDE9, 0xBEF9A3F7B2C67915, 0xC67178F2E372532B,
  0xCA273ECEEA26619C, 0xD186B8C721C0C207, 0xEADA7DD6CDE0EB1E, 0xF57D4F7FEE6ED178,
  0x06F067AA72176FBA, 0x0A637DC5A2C898A6, 0x113F9804BEF90DAE, 0x1B710B35131C471B,
  0x28DB77F523047D84, 0x32CAAB7B40C72493, 0x3C9EBE0A15C9BEBC, 0x431D67C49C100D4C,
  0x4CC5D4BECB3E42B6, 0x597F299CFC657E2A, 0x5FCB6FAB3AD6FAEC, 0x6C44198C4A475817]

/-- The round constants. -/
def shaK : List Word := shaK0 ++ (shaK1 ++ (shaK2 ++ shaK3))

/-- The initial value. -/
def shaInit : List Word := [
  0x6A09E667F3BCC908, 0xBB67AE8584CAA73B, 0x3C6EF372FE94F82B, 0xA54FF53A5F1D36F1,
  0x510E527FADE682D1, 0x9B05688C2B3E6C1F, 0x1F83D9ABFB41BD6B, 0x5BE0CD19137E2179]

/-- Bytes to a value, the first the most significant. -/
def beVal (bs : List Byte) : Nat := bs.foldl (fun v b => 256 * v + b.toNat) 0

/-- `n` bytes of a value, the most significant first. -/
def beBytes (n v : Nat) : List Byte := (leBytes n v).reverse

/-- The message with its end bit, zeros and length. -/
def shaPad (m : List Byte) : List Byte :=
  m ++ (0x80 :: (List.replicate ((239 - m.length % 128) % 128) 0 ++ beBytes 16 (8 * m.length)))

/-- The schedule grown to 80 words, newest first. -/
def shaGrow : Nat → List Word → List Word
  | 0, w => w
  | n + 1, w =>
    let x := w.getD 14 0
    let y := w.getD 1 0
    let s0 := x.rotateRight 1 ^^^ x.rotateRight 8 ^^^ (x >>> 7)
    let s1 := y.rotateRight 19 ^^^ y.rotateRight 61 ^^^ (y >>> 6)
    shaGrow n ((w.getD 15 0 + s0 + w.getD 6 0 + s1) :: w)

/-- The eight working variables. -/
structure Sha where
  a : Word
  b : Word
  c : Word
  d : Word
  e : Word
  f : Word
  g : Word
  h : Word
  deriving DecidableEq, Repr

def Sha.of (l : List Word) : Sha :=
  ⟨l.getD 0 0, l.getD 1 0, l.getD 2 0, l.getD 3 0, l.getD 4 0, l.getD 5 0, l.getD 6 0, l.getD 7 0⟩

def Sha.list (x : Sha) : List Word := [x.a, x.b, x.c, x.d, x.e, x.f, x.g, x.h]

/-- One round. -/
def Sha.round (x : Sha) (kw : Word × Word) : Sha :=
  let s1 := x.e.rotateRight 14 ^^^ x.e.rotateRight 18 ^^^ x.e.rotateRight 41
  let ch := (x.e &&& x.f) ^^^ (~~~x.e &&& x.g)
  let t1 := x.h + s1 + ch + kw.1 + kw.2
  let s0 := x.a.rotateRight 28 ^^^ x.a.rotateRight 34 ^^^ x.a.rotateRight 39
  let mj := (x.a &&& x.b) ^^^ (x.a &&& x.c) ^^^ (x.b &&& x.c)
  ⟨t1 + s0 + mj, x.a, x.b, x.c, x.d + t1, x.e, x.f, x.g⟩

/-- One block of 128 bytes. -/
def shaBlock (h : List Word) (b : List Byte) : List Word :=
  let w0 := (List.range 16).map (fun i => word (beVal ((b.drop (8 * i)).take 8)))
  let w := (shaGrow 64 w0.reverse).reverse
  let x := (shaK.zip w).foldl Sha.round (Sha.of h)
  (h.zip x.list).map (fun p => p.1 + p.2)

def shaBlocks : Nat → List Byte → List Word → List Word
  | 0, _, h => h
  | n + 1, m, h => shaBlocks n (m.drop 128) (shaBlock h (m.take 128))

/-- The 64 bytes of SHA-512. -/
def sha512 (m : List Byte) : List Byte :=
  let p := shaPad m
  (shaBlocks (p.length / 128) p shaInit).flatMap (fun w => beBytes 8 w.toNat)

/-- A digest as a value whose byte 0 is its first byte. -/
def digestVal (bs : List Byte) : BitVec 512 := BitVec.ofNat 512 (leVal bs)
def digestBytes (d : BitVec 512) : List Byte := leBytes 64 d.toNat

/-! Measurement registers (R382). -/

def extendVal (old : BitVec 512) (m : List Byte) : BitVec 512 := digestVal (sha512 (digestBytes old ++ m))

/-- The layout of the polders as POLDER_SET gives it (log 49). -/
def layoutBytes (ps : List Polder) : List Byte :=
  ps.flatMap (fun p => leBytes 1 p.qx0 ++ (leBytes 1 p.qx1 ++ (leBytes 1 p.qy0 ++ (leBytes 1 p.qy1 ++
    (leBytes 4 0 ++ leBytes 8 p.memcfg.toNat)))))

/-- Registers 0 to 7 after boot. -/
def bootMeas (disc : List Nat) (lifecycle : Nat) : AMap (BitVec 512) :=
  ([Config.firmwareImage, Config.supervisorImage, Config.testImage, disc.map (fun d => BitVec.ofNat 8 d), Config.trainingReport,
    leBytes 1 lifecycle, layoutBytes (State.reset.polders.map (·.2)), sha512 Config.firmwareKey].zipIdx).map
      (fun e => (e.2, extendVal 0 e.1))

/-! Signatures. -/

/-- r and s over the SHA-512 of some bytes, 66 bytes each, big-endian; `n` draws a fresh one (R352). -/
def signed (bs : List Byte) (n : Nat) : List Byte :=
  let d := digestVal (sha512 bs)
  beBytes 66 (Config.ecdsaSign d n).1.toNat ++ beBytes 66 (Config.ecdsaSign d n).2.toNat

end Sys2Proof.Machine
end

