-- ==== Sys2Proof/Machine/Errors.lean ====
section
/-! DEFINITION. Errors.lean: replies to faults and invalidations (R257, R259, R284, R358 to R360, R408), polder reset (R337,
R338), uncorrectable errors (R330, R341), in-field tests and taint (R340), the thermal limit (R5), package reset (R56, R386). -/
namespace Sys2Proof.Machine

/-! Replies (R259, R284, R359, R408). -/

/-- The record of a function that awaits the reply with a number (modulo 2^32). -/
def Fn.await? (x : Fn) (num : Nat) : Option Await := x.awaits.find? (fun a => decide (a.num % 2 ^ 32 = num % 2 ^ 32))

def State.dropAwait (s : State) (fn : Nat) (a : Await) : State :=
  let x := s.fn fn
  s.setFn fn { x with awaits := x.awaits.erase a }

/-- RETRY first drops the faulting address from every translation cache, for the stage concerned (R259). -/
def State.dropFaulting (s : State) (job : Nat) (a : Await) : State :=
  s.dropXlats (fun x => decide (x.job = job) && (if a.kind ≤ 2 then decide (x.vpage = a.va / 65536) else decide (x.ipage = a.ia / 65536)))

/-- Frames wait no longer for a reply. -/
def State.unblock (s : State) (job addr : Nat) : State :=
  match s.job? job with
  | some j => s.setJob job { j with blocked := j.blocked.filter (fun k => decide (k ≠ addr)) }
  | none => s

/-- A task is suspended until the reply to one record of a function (R258). -/
def State.awaits (s : State) (fn num job addr : Nat) : Bool :=
  (s.job? job).any (fun j => j.susp.any (fun x => decide (x.addr = addr) && x.why == SuspWhy.fault fn num))

/-- A task whose own fault has been answered, and whose frame has not let it be made ready, is made ready (R259, R408). -/
def State.rewake (s : State) (job addr : Nat) : State :=
  if (s.job? job).any (fun j => j.susp.any (fun x => decide (x.addr = addr) && (match x.why with
      | .fault fn num => !((s.fn fn).awaits.any (fun a => decide (a.num = num)))
      | _ => false))) then s.wake job addr false
  else s

/-- The job of what awaits a reply. -/
def State.awaitJob (s : State) : AwaitFor → Nat
  | .task j _ => j
  | .frame j _ _ => j
  | .barge id => ((s.barges.find? (fun (b : Barge) => decide (b.id = id))).map (·.job)).getD 0

/-- A record whose write at its address has waited for a reply goes to the ready queue, or is written again (R17, R408). -/
def State.rewrite (s : State) (job addr : Nat) : State :=
  match s.job? job with
  | none => s
  | some j => match j.unwritten.find? (fun u => decide (u.rcd.addr = addr)) with
    | some u => (s.setJob job { j with unwritten := j.unwritten.erase u }).pushReady job u.rcd u.front
    | none => s

/-- RETRY: the access is made again (R259, R284, R408). -/
def State.replyRetry (s : State) (fn num : Nat) : State :=
  match (s.fn fn).await? num with
  | none => s
  | some a =>
    let s := (s.dropAwait fn a).dropFaulting (s.awaitJob a.target) a
    match a.target with
    | .task j addr => if s.awaits fn a.num j addr then s.wake j addr false else s
    | .frame j addr _ => ((s.unblock j addr).rewrite j addr).rewake j addr
    | .barge id => { s with barges := s.barges.map (fun (b : Barge) =>
        if b.id = id then { b with frozen := none, observed := false, seen := [] } else b) }

def execFqreplyRetry (fn num : Nat) (s : State) : Host.Outcome State Fault Refusal := .next (s.replyRetry fn num)

/-- The cause a delivered fault raises (R259). -/
def deliverCause (kind : Nat) : Nat := if kind = 2 || kind = 4 then 0x06 else 0x05

/-- DELIVER: the task raises its fault, the gang or the upcall ends, the request fails (R259, R284, R408, R410). -/
def State.replyDeliver (s : State) (fn num : Nat) : State :=
  match (s.fn fn).await? num with
  | none => s
  | some a =>
    let s := s.dropAwait fn a
    match a.target with
    | .task j addr =>
      let entry := ((s.job? j).bind (fun x => x.carry.find? (fun c => decide (c.addr = addr)))).any (·.entry)
      if s.awaits fn a.num j addr then (s.addCarry j addr (some ⟨deliverCause a.kind, word a.va⟩) entry).wake j addr false else s
    | .frame j addr n =>
      let s := s.unblock j addr
      let f : Failure := { detail := 5, code := 0x0F, task := addr, tile := n, seq := s.seqOf j addr }
      (match s.job? j with
      | none => s
      | some x =>
        if (x.upcallOf addr).isSome then s.endUpcall j addr f.seq f
        else s.failGang j (x.gangAt addr) f)
    | .barge id => s.failBarge id a.va

def execFqreplyDeliver (fn num : Nat) (s : State) : Host.Outcome State Fault Refusal := .next (s.replyDeliver fn num)

/-- FQHEAD written: records held back are posted (R358). -/
def State.fqHead (s : State) (fn : Nat) (v : Nat) : State :=
  let x := s.fn fn
  (s.setFn fn { x with fqhead := v }).drainFq (x.held.length + 1) fn

def execFqheadWrite (fn : Nat) (v : Word) (s : State) : Host.Outcome State Fault Refusal := .next (s.fqHead fn v.toNat)

/-! Invalidations (R257, R360). -/

/-- The request an INVCMD makes; one with a reserved bit set, or a JOBID that names no job, does nothing. -/
def State.invalOf (s : State) (fn : Nat) (v : Word) : Inval :=
  let x := s.fn fn
  let all := v.getLsbD 0
  let jid := if fn = 0 then v.toNat / 256 % 256 else fn
  let clean := if fn = 0 then decide (v.toNat / 65536 = 0) && decide (v.toNat / 2 % 128 = 0) else decide (v.toNat < 2)
  ⟨if clean && (s.job? jid).isSome then some jid else none, all, x.invaddr.toNat, x.invlen.toNat⟩

/-- Writes of the invalidation registers in order, by offset and value, up to an INVCMD that finds 16 requests pending: it and those
behind it are held in the host sluice. -/
def State.writeInvs (s : State) (fn : Nat) : List (Nat × Word) → State
  | [] => s.setFn fn { s.fn fn with invHeld := [] }
  | (off, v) :: t =>
    let x := s.fn fn
    if off = 0x3000 then (s.setFn fn { x with invaddr := v }).writeInvs fn t
    else if off = 0x3008 then (s.setFn fn { x with invlen := v }).writeInvs fn t
    else if 16 ≤ x.invs.length then s.setFn fn { x with invHeld := (off, v) :: t }
    else (s.setFn fn { x with invs := x.invs ++ [s.invalOf fn v] }).writeInvs fn t

/-- INVADDR, INVLEN or INVCMD written: behind the writes that are held. -/
def State.writeInv (s : State) (fn off : Nat) (v : Word) : State := s.writeInvs fn ((s.fn fn).invHeld ++ [(off, v)])

def execInvcmd (fn : Nat) (v : Word) (s : State) : Host.Outcome State Fault Refusal := .next (s.writeInv fn 0x3010 v)

/-- An entry a stage's invalidation drops: at stage 2 also one whose walk read a stage-1 table in the range (R257). -/
def Inval.hits (i : Inval) (fn : Nat) (x : Xlat) : Bool :=
  i.job.any (fun j => decide (x.job = j)) && (i.all || (if fn = 0 then x.ipage :: x.tables else [x.vpage]).any (fun p =>
    decide (65536 * p < i.addr + i.len) && decide (i.addr < 65536 * p + 65536)))

/-- A whole-job invalidation puts the stage's root in force (R360). -/
def State.useRoot (s : State) (fn : Nat) (i : Inval) : State :=
  match i.job with
  | none => s
  | some jid => if !i.all then s else match s.job? jid with
    | some j => s.setJob jid (if fn = 0 then { j with s2root := j.s2new } else { j with s1root := j.s1new })
    | none => s

/-- Stores and reductions that wait in the L1s of a job's tiles, and die-hashed writes on their way, are performed (R257, R294). DESIGN
CHOICE (log 141): the completion of an invalidation cleans them, all of them. -/
def State.performStores (s : State) (jid : Nat) : State :=
  ((s.tiles.filter (fun e => ownedBy e.2.owner jid)).map (·.1)).foldl (fun (s : State) n => s.releaseGang n) s.dhDrain

/-- A staged entry of the job used an entry that an invalidation drops, and the tables in force from then on give another one: its access
has still to be performed (R257). -/
def State.usedOld (s : State) (fn : Nat) (i : Inval) (jid : Nat) : Bool :=
  let s' := s.useRoot fn i
  match s'.job? jid with
  | none => false
  | some j => j.gangs.any (fun g => g.2.entries.any (fun e => e.uses.any (fun x => i.hits fn x &&
      (match s'.walk jid j e.site (65536 * x.vpage) accStore .write with
      | .ok y => decide (y ≠ x)
      | .error _ => true))))

/-- The oldest pending request: the caches drop the entries concerned; once every access that used one has been performed it completes,
and writes held behind the requests go on. -/
def execInvalidationComplete (fn : Nat) (s : State) : Host.Outcome State Fault Refusal :=
  let x := s.fn fn
  match x.invs with
  | [] => .next s
  | i :: t =>
    let s := s.dropXlats (i.hits fn)
    if i.job.any (s.usedOld fn i) then .next s
    else
      let s := ((i.job.map s.performStores).getD s).useRoot fn i
      .next ((s.setFn fn { s.fn fn with invs := t, invdone := x.invdone + 1 }).writeInvs fn x.invHeld)

/-- DKEYHI written: with DKEYLO the digit key, unless the job has a live gang (R209, R357). -/
def State.keyHigh (s : State) (job : Nat) (v : Word) : State :=
  match s.job? job with
  | some j => if j.liveGangs.isEmpty then s.setJob job { j with dkey := v ++ j.dkeylo } else s
  | none => s

def execDkeyhiWrite (job : Nat) (v : Word) (s : State) : Host.Outcome State Fault Refusal := .next (s.keyHigh job v)

/-! What a job's stage 2 reaches (R254, R341). -/

/-- Frames, as base and length, that stage 2 from a table maps for a requester at a site; `n` levels left. -/
def State.s2Ranges (s : State) (site : Nat) : Nat → Nat → Nat → List (Nat × Nat)
  | 0, _, _ => []
  | n + 1, t, lvl =>
    let size := if lvl = 0 then 256 else 65536
    let base := physKey site t
    let idx := (((s.mem.near base size).map (fun c => (c.1 - base) / 8)).eraseDups)
    idx.flatMap (fun i =>
      let d := s.mem.readLE (base + 8 * i) 8
      if !descOk true lvl d then []
      else if dType d = 1 then [(dOA d, 2 ^ pageBits lvl)]
      else s.s2Ranges site n (dOA d) (lvl + 1))

/-- A job's frames: what its stage 2 maps (R341). Its control block lies outside its tables (R243). -/
def State.jobRanges (s : State) (jid : Nat) (j : Job) : List (Nat × Nat) := s.s2Ranges (s.jobSite jid) 4 j.s2root 0

def inRanges (rs : List (Nat × Nat)) (pa : Nat) : Bool := rs.any (fun r => decide (r.1 ≤ pa) && decide (pa < r.1 + r.2))

/-! Polder reset (R337, R338). -/

/-- Jobs of a polder, rising. -/
def State.jobsIn (s : State) (q : Nat) : List Nat :=
  sortBy (fun a b => decide (a < b)) ((s.jobs.filter (fun (e : Nat × Job) => decide (e.2.polder = q))).map (·.1))

/-- Every live gang of a job ends with a final status; its collectives with it, FAILED unless the polder is reset (R337 step 1,
R335, R380, log 55). -/
def State.endGangs (s : State) (jid status : Nat) : State :=
  match s.job? jid with
  | none => s
  | some j =>
    let s := (j.liveGangs.map (·.1)).foldl (fun s g => (s.voidGang jid g status).1) s
    let s := s.endColls jid (if status = 0x203 then status else 0x200) (fun _ => true)
    match s.job? jid with
    | some j => s.setJob jid { j with
        streams := j.streams.map (fun (e : Nat × Stream) => (e.1, { e.2 with opened := false, containing := false, head := e.2.tail + 1 }))
        graphs := [] }
    | none => s

/-- What a job keeps of its work when its polder is reset: nothing but its place. -/
def Job.emptied (j : Job) : Job :=
  { j with ready := [], pending := [], unwritten := [], images := [], susp := [], carry := [], blocked := [], pool := [], upcalls := [], missed := none
           splits := [], unseeded := true, readyQ := 0, readyQN := 0, spillB := 0, spillN := 0 }

/-- The control block after the wipe (R338): the hypervisor's area, counters and SATMASK from their copies, an empty territory. -/
def State.rebuildJcb (s : State) (jid : Nat) (hyper : List Byte) : State :=
  match s.job? jid with
  | none => s
  | some j =>
    let s := { s with mem := (s.mem.zero j.jcbpa 8192).writeBytes (j.jcbpa + 0x100) hyper }
    let s := (List.range 64).foldl (fun s k => s.setJcb j (0x400 + 8 * k) 8 (AMap.getD j.copy k 0)) s
    let s := s.setJcb j 0x200 4 (AMap.getD j.copy 64 0 + 2)
    let s := s.setJcb j 0x208 8 (AMap.getD j.copy 65 0)
    let s := s.setJcb j 0x210 8 (AMap.getD j.copy 66 0)
    let s := s.setJcb j 0x218 8 (AMap.getD j.copy 67 0)
    s.setJob jid { j with copy := AMap.set j.copy 64 (s.jcb j 0x200 4) }

/-- A tile after a polder reset: unowned and wiped, unless it is dead; one in transit has changed its owner (R69). -/
def Tile.resetTile (t : Tile) : Tile :=
  { t.wiped with
    owner := if t.dying || t.owner == Owner.dead then .dead else .unowned
    tenure := match t.owner with
      | .transit _ => if t.dying || t.tenure = BitVec.allOnes 32 then t.tenure else t.tenure + 1
      | _ => t.tenure
    cess := none }

/-- A memory key of a polder: behind the channels of its quadrants, or of one of its sites (R58, R252). -/
def ofPolder (q : Nat) (p : Polder) (k : Nat) : Bool :=
  match keySite k with
  | some d => decide (d / 4 = q)
  | none => p.quads.contains (Config.quadOfPa k)

/-- The wipe of a polder's tiles, caches and memory (R337 step 2). -/
def State.wipePolder (s : State) (q : Nat) (p : Polder) (jids : List Nat) : State :=
  let gone := ofPolder q p
  let mine (n : Nat) : Bool := p.quads.contains (quadOf n)
  let s := { s with
    fns := s.fns.map (fun (e : Nat × Fn) => (e.1, { e.2 with awaits := e.2.awaits.filter (fun a => match a.target with
      | .task j _ => !jids.contains j
      | .frame j _ _ => !jids.contains j
      | .barge id => s.barges.any (fun b => decide (b.id = id) && !jids.contains b.job)) })) }
  let s := s.dropBarges (fun b => jids.contains b.job)
  { s with
    tiles := s.tiles.map (fun (e : Nat × Tile) => if mine e.1 then (e.1, e.2.resetTile) else e)
    qtlb := s.qtlb.filter (fun e => !p.quads.contains e.1)
    pend := s.pend.filter (fun c => !gone c.addr && !jids.contains c.job)
    dhq := s.dhVoid q
    dhClock := s.dhClock.filter (fun e => decide (e.1 / 4 ≠ q))
    dhLast := s.dhLast.filter (fun e => !gone e.1)
    mem := s.mem.filter (fun c => !gone c.1)
    poison := s.poison.filter (fun u => !gone (8 * u)) }.coolPolder q

/-- The KIND 18 record of a job, or of the polder itself (R336). -/
def polderRecord (low jid ccy : Nat) : List Byte := faultRecord31 0 0 0 noGang 18 0 0 low 0xFFFF jid 0 ccy

/-- A polder reset. -/
def State.resetPolder (s : State) (q : Nat) : State :=
  match s.polder? q with
  | none => s
  | some p =>
    let jids := s.jobsIn q
    let s := jids.foldl (fun s j => (s.endGangs j 0x203).flushMeter j) s
    let hyper := jids.map (fun j => (j, match s.job? j with
      | some x => s.mem.readBytes (x.jcbpa + 0x100) 0x100
      | none => []))
    let s := s.wipePolder q p jids
    let s := s.setPolder q { p with memcfg := p.memNew, rot := [], lastSel := 0, waitPlace := [] }
    let s := jids.foldl (fun s j => match s.job? j with
      | some x => (s.setJob j x.emptied).rebuildJcb j (AMap.getD hyper j [])
      | none => s) s
    let s := jids.foldl (fun s j => s.postBoth j (polderRecord p.lowest j s.ccy.toNat)) s
    (s.postFault 0 (polderRecord p.lowest 0 s.ccy.toNat)).1

/-- Every polder reset. -/
def State.resetAll (s : State) : State := (s.polders.map (·.1)).foldl State.resetPolder s

/-- The polder that holds a quadrant reset. -/
def State.resetAt (s : State) (quad : Nat) : State :=
  match s.polderOfQuad quad with
  | some (q, _) => s.resetPolder q
  | none => s

def execFailedLockkeeper (quadrant : Nat) (s : State) : Host.Outcome State Fault Refusal := .next (s.resetAt quadrant)

/-! Uncorrectable errors (R330, R341). -/

/-- The jobs whose stage 2 maps the frame of a home key. -/
def State.mappers (s : State) (k : Nat) : List Nat :=
  (s.jobs.filter (fun (e : Nat × Job) => inRanges (s.jobRanges e.1 e.2) (k % 2 ^ 52))).map (·.1)

/-- The quadrant that names the polder of a home: its site's, or that behind whose channels it lies (log 14). -/
def quadOfKey (k : Nat) : Nat :=
  match keySite k with
  | some d => d / 4
  | none => Config.quadOfPa k

/-- An error in a memory frame counts to the one job that maps it, else to the polder of the frame's channels (R341, log 46). -/
def State.memErr (s : State) (k idx : Nat) : State :=
  match s.mappers k with
  | [j] => s.jobErr j idx
  | _ => s.polderErr (quadOfKey k) idx

def execUncorrectableError (site : ErrSite) (s : State) : Host.Outcome State Fault Refusal :=
  match site with
  | .memory u => .next ({ s with poison := NSet.insert u s.poison }.memErr (8 * u) 3)
  | .scratchpad n u =>
    let t := s.tile n
    .next ((s.setTile n { t with spPoison := NSet.insert u t.spPoison }).tileErr n 1)
  | .task n =>
    (match (s.tile n).run with
    | some r => .next ((s.tileErr n 1).taskError r.job r.rcd n)
    | none => .next (s.tileErr n 1))
  | .gang j g => .next (s.gangError j g { detail := 3, code := 0x0F })
  | .structural quad => .next ((s.polderErr quad 10).resetAt quad)
  | .correctedTile n => .next (s.tileErr n 0)
  | .correctedMemory u => .next (s.memErr (8 * u) 2)
  | .cached n u =>
    let t := s.tile n
    .next ((s.setTile n { t with
      l1 := t.l1.map (fun l => if l.key = u / 4 then { l with poison := l.poison ||| BitVec.ofNat 4 (2 ^ (u % 4)) } else l)
      ccache := t.ccache.map (fun l =>
        if l.key = u / 8 then { l with poison := l.poison ||| BitVec.ofNat 8 (2 ^ (u % 8)) } else l) }).tileErr n 1)
  | .checkerRetry n => .next (s.tileErr n 4)
  | .matrix n u =>
    let t := s.tile n
    .next ((s.setTile n (if u < 0xC008 then { t with mat := { t.mat with bad := NSet.insert u t.mat.bad } }
      else { t with mqBad := true })).tileErr n 1)

/-! In-field tests (R340). -/

/-- Ticket range of a log entry's job and stream: the lowest logged ticket that has committed to the highest logged one, committed or
live; what the log says where no such ticket is left (log 47). -/
def State.taintRange (s : State) (log : List Taint) (x : Taint) : Nat × Nat :=
  let mine := log.filter (fun y => decide (y.job = x.job) && decide (y.stream = x.stream))
  let tickets (p : Gang → Bool) : List Nat := match s.job? x.job with
    | some j => (j.gangs.filter (fun (e : Nat × Gang) => p e.2 && decide (e.2.stream = x.stream) &&
        mine.any (fun (y : Taint) => decide (y.lo ≤ e.2.ticket) && decide (e.2.ticket ≤ y.hi)))).map (fun (e : Nat × Gang) => e.2.ticket)
    | none => []
  let low (l : List Nat) : Nat := l.foldl min (l.headD 0)
  let done := tickets (fun g => g.phase == GPhase.committed)
  let kept := tickets (fun g => g.phase == GPhase.committed || g.live)
  (low (if !done.isEmpty then done else if !kept.isEmpty then kept else mine.map (fun (y : Taint) => y.lo)),
   listMax (if kept.isEmpty then mine.map (fun (y : Taint) => y.hi) else kept))

/-- The tickets of a range marked tainted: a live gang when it commits, a committed one in its slot. -/
def State.taintTickets (s : State) (jid stream lo hi : Nat) : State :=
  match s.job? jid with
  | none => s
  | some j =>
    let hit := j.gangs.filter (fun (e : Nat × Gang) => decide (e.2.stream = stream) && decide (lo ≤ e.2.ticket) && decide (e.2.ticket ≤ hi))
    hit.foldl (fun s (e : Nat × Gang) =>
      if e.2.live then (match s.gang? jid e.1 with
        | some g => s.setGang jid e.1 { g with tainted := true }
        | none => s)
      else if e.2.phase == .committed && decide (e.2.desc.digest ≠ 0) then s.taintSlot jid stream e.2.ticket else s) s

/-- One KIND 17 record with its marks; of a job that has been destroyed since to the physical function alone (R336, R340). -/
def State.reportTaint (s : State) (n : Nat) (log : List Taint) (x : Taint) : State :=
  let (lo, hi) := s.taintRange log x
  let s := (s.taintTickets x.job x.stream lo hi).jobErr x.job 9
  let rec_ := faultRecord31 lo hi 0 noGang 17 0 x.stream 0 n x.job 0 s.ccy.toNat
  if (s.job? x.job).isSome then s.postBoth x.job rec_ else (s.postFault 0 rec_).1

/-- The test of a free tile. -/
def State.testTile (s : State) (n : Nat) (passes : Bool) : State :=
  let t := s.tile n
  if passes then s.setTile n { t with testing := none, taint := [], tested := s.ccy.toNat }
  else
    let log := mergeTaint t.taint
    let s := s.markDead n
    log.foldl (fun s x => s.reportTaint n t.taint x) s

/-- A test is asked for: a tile that runs or holds a task is pre-empted first (R324); a free one is tested. -/
def execInfieldTest (tile : Nat) (passes : Bool) (s : State) : Host.Outcome State Fault Refusal :=
  let t := s.tile tile
  if t.dying || t.owner == Owner.dead then .next s
  else if s.evicted tile then .next (s.testTile tile passes)
  else if t.testing.isSome then .next s
  else .next ((s.setTile tile { t with testing := some passes }).requestOn tile .test)

/-! The thermal limit (R5) and package reset (R2, R56, R57, R386). -/

/-- Every memory of the package zero, every tile as at reset but its TENURE; nothing is left on its way. -/
def State.wipeAll (s : State) : State :=
  { s with mem := [], poison := [], pend := [], dhq := [], dhClock := [], dhLast := [], coldTile := [], coldPolder := [], qtlb := []
           barges := []
           sluices := s.sluices.map (fun (e : Nat × Sluice) => (e.1, { e.2 with got := e.2.sent }))
           tiles := s.tiles.map (fun (e : Nat × Tile) => (e.1, e.2.resetTile)) }

/-- The limit is reached: every polder is reset, everything wiped, the dies powered down, the event kept for the next management
session (R5). -/
def execThermalLimit (degrees : Nat) (s : State) : Host.Outcome State Fault Refusal :=
  if degrees < 110 then .next s
  else .next { s.resetAll.wipeAll with poweredDown := true, thermal := true }

/-- The tiles of one logical row and their new remap column: a dead tile takes the spare when it is still free (R57). -/
def rowDisc (dead : List Nat) (disc : Nat) : Nat := if disc = 12 then (dead.headD 12) else disc

/-- Local x of the tiles of a die row that stay dead, after its column has been remapped. -/
def rowDead (dead : List Nat) (disc new : Nat) : List Nat :=
  if disc = 12 && decide (new < 12) then (dead.filter (fun c => decide (c ≠ new))).map (fun c => if new < c then c - 1 else c) else dead

/-- Local x of the dead tiles of row `j` of die `d`. -/
def State.deadIn (s : State) (d j : Nat) : List Nat :=
  (List.range 12).filter (fun x =>
    let t := s.tile (x + 12 * (d % 2) + 24 * (j + 12 * (d / 2)))
    t.owner == Owner.dead || t.dying)

/-- Tiles still dead after a reset with a table of columns. -/
def State.stayDead (s : State) (disc : List Nat) : List Nat :=
  (List.range 48).flatMap (fun i =>
    let d := i / 12
    let j := i % 12
    (rowDead (s.deadIn d j) (s.disc.getD i 12) (disc.getD i 12)).map (fun x => x + 12 * (d % 2) + 24 * (j + 12 * (d / 2))))

/-- The machine after a package reset: the remap table loaded, everything wiped, the management core's keys and life cycle
kept; at boot the core extends measurement registers 0 to 7 (R382). -/
def execPackageReset (disc : List Nat) (s : State) : Host.Outcome State Fault Refusal :=
  let table := (List.range 48).map (fun i =>
    let fuse := min 12 (disc.getD i 12)
    if fuse = 12 then rowDisc (s.deadIn (i / 12) (i % 12)) (s.disc.getD i 12) else fuse)
  .next { State.reset with
    inputs := s.inputs
    draws := s.draws
    disc := table
    tiles := (s.stayDead table).map (fun n => (n, { owner := .dead }))
    host := s.host
    hostReads := s.hostReads
    hostHoles := s.hostHoles
    fabric := s.fabric
    lifecycle := s.lifecycle
    lcseq := s.lcseq
    ownerKey := s.ownerKey
    keysErased := s.keysErased
    firmware := s.firmware
    keyEpoch := s.keyEpoch + 1
    thermal := s.thermal
    meas := bootMeas table s.lifecycle }

end Sys2Proof.Machine
end

