-- ==== Sys2Proof/Machine/Lazy.lean ====
section
/-! DEFINITION. Lazy.lean: lazy-uniform registers (R206, R207), digit sources (R208 to R211), deciding (R212, R213) and the lazy
instructions (R217). -/
namespace Sys2Proof.Machine

/-! The register image (R206). -/

/-- A lazy register, its fields apart; `resv` holds the two reserved fields. -/
structure LReg where
  digits : Nat
  len : Nat
  kind : Nat
  resv : Nat
  strm : Nat
  pos : Word
  base : Word
  deriving DecidableEq, Repr

def LReg.of (x : Nat) : LReg where
  digits := x % 2 ^ 256
  len := x / 2 ^ 256 % 2 ^ 16
  kind := x / 2 ^ 272 % 2 ^ 8
  resv := x / 2 ^ 280 % 2 ^ 8 + x / 2 ^ 448 % 2 ^ 64
  strm := x / 2 ^ 288 % 2 ^ 32
  pos := word (x / 2 ^ 320)
  base := word (x / 2 ^ 384)

/-- The image, reserved fields zero. -/
def LReg.image (y : LReg) : Nat :=
  y.digits + 2 ^ 256 * y.len + 2 ^ 272 * y.kind + 2 ^ 288 * y.strm + 2 ^ 320 * y.pos.toNat + 2 ^ 384 * y.base.toNat

/-- BASE obeys KIND: zero for a generator, an aligned address for a memory source. -/
def baseOk (kind : Nat) (base : Word) : Bool :=
  if kind = 1 then base == 0 else decide (base.toNat % 8 = 0) && decide (base.toNat < 2 ^ 60)

/-- R207. -/
def LReg.valid (y : LReg) : Bool :=
  (y.kind == 1 || y.kind == 2) && [0, 64, 128, 192, 256].contains y.len && decide (y.digits % 2 ^ (256 - y.len) = 0)
    && decide (y.resv = 0) && baseOk y.kind y.base

/-- Lo and Hi, times 2^256. -/
def LReg.lo (y : LReg) : Nat := y.digits
def LReg.hi (y : LReg) : Nat := y.digits + 2 ^ (256 - y.len)

/-- The raw image of a register; poison is an uncorrectable error. -/
def rdYRaw (k : YReg) : M Nat := do
  let t ← tileM
  regBytes (t.yAt k) 64
  pure (t.sp.readLE (t.yAt k) 64)

/-- A lazy operand: an image that is not valid is not legal where it stands (R207). -/
def rdY (k : YReg) : M LReg := do
  let y := LReg.of (← rdYRaw k)
  if y.valid then pure y else illegal

def wrYRaw (k : YReg) (v : Nat) : M Unit := modTile (fun t => t.putSp (t.yAt k) (leBytes 64 v))
def wrY (k : YReg) (y : LReg) : M Unit := wrYRaw k y.image

/-! Digit sources (R209, R210). -/

/-- The state of ARX128: four 32-bit words. -/
structure Arx where
  x0 : BitVec 32
  x1 : BitVec 32
  x2 : BitVec 32
  x3 : BitVec 32
  deriving DecidableEq, Repr

/-- Word i of the key. -/
def keyWord (k : BitVec 128) (i : Nat) : BitVec 32 := k.extractLsb' (32 * (i % 4)) 32

/-- Round r. -/
def Arx.round (k : BitVec 128) (r : Nat) (x : Arx) : Arx :=
  let x0 := x.x0 + x.x1
  let x3 := (x.x3 ^^^ x0).rotateLeft 13
  let x2 := x.x2 + x3
  let x1 := (x.x1 ^^^ x2).rotateLeft 17
  let x0 := x0 + x3
  let x2 := (x2 ^^^ x0).rotateLeft 5
  let y : Arx := ⟨x1, x2, x3, x0⟩
  if r % 4 = 0 then
    let q := r / 4
    ⟨y.x0 + keyWord k q, y.x1 + keyWord k (1 + q), y.x2 + keyWord k (2 + q), y.x3 + keyWord k (3 + q) + BitVec.ofNat 32 r⟩
  else y

def Arx.rounds (k : BitVec 128) : List Nat → Arx → Arx
  | [], x => x
  | r :: t, x => Arx.rounds k t (x.round k r)

def arx128 (k : BitVec 128) (c0 c1 c2 c3 : BitVec 32) : Word :=
  let x := Arx.rounds k (upFrom 1 1 12) ⟨c0 ^^^ keyWord k 0, c1 ^^^ keyWord k 1, c2 ^^^ keyWord k 2, c3 ^^^ keyWord k 3⟩
  ((x.x0 + c0) ^^^ (x.x2 + c2)) ++ ((x.x1 + c1) ^^^ (x.x3 + c3))

/-- Block j of a generator (R209). -/
def genBlock (k : BitVec 128) (strm : Nat) (j : Word) : Word :=
  arx128 k (j.extractLsb' 0 32) (j.extractLsb' 32 32) (BitVec.ofNat 32 strm) 0x5A4C4E31

/-- Memory read as plain loads, at most 32 bytes each within a unit. -/
def loadAt (as : List (Nat × Nat)) : M (List Byte) := do
  let ls ← checkLanes .load as
  let bs ← loadLanes ls
  pure bs.flatten

/-- A 64-bit value of memory. DEDUCED (log 66): R210 makes each such read a load of its own, which lowers the count of a line filled by
ldrc, as each pop and append of a stream does (R142, R247). -/
def loadWord (a : Word) : M Word := do
  pure (word (leVal (← loadAt [(a.toNat, 8)])))

/-- Block j of a source, counted in LAZYBLK (R351). DESIGN CHOICE (log 126): BASE + 8 j is taken modulo 2^64; R210 gives no other
reading of a sum that passes it. -/
def sourceBlock (kind strm : Nat) (base j : Word) : M Word := do
  meterM 39 1
  if kind = 1 then do
    let r ← runM
    match (← get).job? r.job with
    | some x => pure (genBlock x.dkey strm j)
    | none => illegal
  else loadWord (base + 8 * j)

/-- The next block of the reservation read into a register. -/
def extend (k : YReg) (y : LReg) : M LReg := do
  let b ← sourceBlock y.kind y.strm y.base (y.pos + word (y.len / 64))
  let y := { y with digits := y.digits + b.toNat * 2 ^ (192 - y.len), len := y.len + 64 }
  wrY k y
  pure y

/-- LAZY_EXHAUSTED, what has been read staying in the register (R213). -/
def exhausted {α : Type} (k : YReg) : M α := failKeep (.trap 0x0C (word k.val))

/-! Deciding (R212). -/

/-- A threshold: a fraction, or an infinity. -/
inductive Thr where
  | frac (num : Int) (den : Nat)
  | inf (neg : Bool)
  deriving DecidableEq, Repr

/-- t ≤ Lo, t ≥ Hi. -/
def Thr.le (t : Thr) (x : Nat) : Bool :=
  match t with
  | .frac n d => decide (n * 2 ^ 256 ≤ (x * d : Int))
  | .inf neg => neg

def Thr.ge (t : Thr) (x : Nat) : Bool :=
  match t with
  | .frac n d => decide ((x * d : Int) ≤ n * 2 ^ 256)
  | .inf neg => !neg

def decideLoop (k : YReg) (t : Thr) : Nat → LReg → M (Bool × LReg)
  | 0, _ => exhausted k
  | n + 1, y =>
    if t.le y.lo then pure (false, y)
    else if t.ge y.hi then pure (true, y)
    else if 256 ≤ y.len then exhausted k
    else do
      let y ← extend k y
      decideLoop k t n y

/-- U < t. -/
def decideY (k : YReg) (t : Thr) : M Bool := do
  let y ← rdY k
  pure (← decideLoop k t 5 y).1

/-- The threshold of a number. -/
def Thr.ofNum : Num → Thr
  | .nan => .inf true
  | .inf n => .inf n
  | .fin n m e =>
    let v : Int := if n then -(m : Int) else m
    if 0 ≤ e then .frac (v * 2 ^ e.toNat) 1 else .frac v (2 ^ (-e).toNat)

/-! The instructions (R217). -/

/-- A digit-source descriptor (R208). -/
structure DSrc where
  kind : Nat
  strm : Nat
  pos : Word
  base : Word
  nblk : Nat
  deriving DecidableEq, Repr

def DSrc.of (bs : List Byte) : DSrc := ⟨fieldAt bs 0 4, fieldAt bs 4 4, word (fieldAt bs 8 8), word (fieldAt bs 16 8), fieldAt bs 24 8⟩

/-- `count` blocks reserved of the descriptor at w(A); `name` is the destination in the TVAL of R210. What `first` writes comes before the
store of POS (R217). -/
def reserveWith (a : WReg) (count name : Nat) (first : DSrc → M Unit) : M DSrc := do
  let ea ← rdW a
  if ea.toNat % 32 ≠ 0 then trap 0x08 ea
  else do
    let d := DSrc.of (← loadAt [(ea.toNat, 32)])
    if !((d.kind == 1 || d.kind == 2) && baseOk d.kind d.base && (d.kind != 1 || d.nblk == 0)) then illegal
    else if d.kind = 2 && decide (d.nblk < d.pos.toNat + count) then trap 0x0C (word (0x100 + name))
    else do
      let ls ← checkLanes .store [(ea.toNat + 8, 8)]
      first d
      ls.forM (fun l => storeLane l (leBytes 8 (d.pos.toNat + count)))
      pure d

def reserve (a : WReg) (count name : Nat) : M DSrc := reserveWith a count name (fun _ => pure ())

def execYdraw (p : Pred) (d : YReg) (a : WReg) : State → Host.Outcome State Fault Refusal :=
  perform (whole p do
    let _ ← reserveWith a 4 d.val (fun s => wrY d ⟨0, 0, s.kind, 0, s.strm, s.pos, s.base⟩)
    pure .next)

def execYset (p : Pred) (d : YReg) (a : WReg) : State → Host.Outcome State Fault Refusal :=
  perform (whole p do
    let ea ← rdW a
    if ea.toNat % 64 ≠ 0 then trap 0x08 ea
    else do
      let x := leVal (← loadAt [(ea.toNat, 32), (ea.toNat + 32, 32)])
      if (LReg.of x).valid then do
        wrYRaw d x
        pure .next
      else illegal)

def execYcopy (p : Pred) (d a : YReg) : State → Host.Outcome State Fault Refusal :=
  perform (whole p do
    let x ← rdYRaw a
    if (LReg.of x).kind = 0 || (LReg.of x).valid then do
      wrYRaw d x
      pure .next
    else illegal)

def execYrd (p : Pred) (asF32 : Bool) (m : Rnd) (d : WReg) (a : YReg) : State → Host.Outcome State Fault Refusal :=
  perform (whole p do
    let y ← rdY a
    if asF32 then do
      let (x, f) := round .f32 m false 0 (.fin false y.lo (-256))
      stickM f
      wrW d (word x)
      pure .next
    else do
      let y ← if y.len < 64 then extend a y else pure y
      wrW d (word (y.digits / 2 ^ 192))
      pure .next)

/-- Every bit of f(D) set to an outcome. -/
def wrOutcome (d : FReg) (c : Bool) : M Flow := do
  wrF d (if c then onesF else 0)
  pure .next

def execYcmp (p : Pred) (asF32 : Bool) (d : FReg) (a : YReg) (b : WReg) : State → Host.Outcome State Fault Refusal :=
  perform (whole p do
    let t ← rdW b
    let v := valueOf .f32 (t.toNat % 2 ^ 32)
    if asF32 && v.isNan then do
      let _ ← rdY a
      stickM fNV
      wrOutcome d false
    else do
      let c ← decideY a (if asF32 then Thr.ofNum v else .frac t.toNat (2 ^ 64))
      wrOutcome d c)

def execYcmpq (p : Pred) (d : FReg) (a : YReg) (b c : WReg) : State → Host.Outcome State Fault Refusal :=
  perform (whole p do
    let n ← rdW b
    let k ← rdW c
    if k = 0 then do
      let _ ← rdY a
      wrOutcome d (decide (n ≠ 0))
    else do
      let c ← decideY a (.frac n.toNat k.toNat)
      wrOutcome d c)

/-- U of ya against U of yb, each extended in turn. -/
def compareLoop (ka kb : YReg) : Nat → LReg → LReg → M Bool
  | 0, _, _ => exhausted ka
  | n + 1, y, z =>
    if y.hi ≤ z.lo then pure true
    else if z.hi ≤ y.lo then pure false
    else if y.len ≤ z.len then
      if 256 ≤ y.len then exhausted ka
      else do
        let y ← extend ka y
        compareLoop ka kb n y z
    else if 256 ≤ z.len then exhausted kb
    else do
      let z ← extend kb z
      compareLoop ka kb n y z

def execYcmpy (p : Pred) (d : FReg) (a b : YReg) : State → Host.Outcome State Fault Refusal :=
  perform (whole p do
    let y ← rdY a
    let z ← rdY b
    if a = b then wrOutcome d false
    else do
      let c ← compareLoop a b 9 y z
      wrOutcome d c)

/-- The binary search of ycat; each probe halves an interval of at most 2^32 entries. Table addresses are
taken modulo 2^64 (log 126). -/
def searchLoop (k : YReg) (table : Word) (w : Nat) : Nat → Nat → Nat → M Nat
  | 0, lo, _ => pure lo
  | n + 1, lo, hi =>
    if hi ≤ lo then pure lo
    else do
      let mid := (lo + hi) / 2
      let x ← loadWord (table + 8 * word mid)
      let c ← if w = 0 then pure false else decideY k (.frac x.toNat w)
      if c then searchLoop k table w n lo mid else searchLoop k table w n (mid + 1) hi

/-- ycat: a count of 0 reads and checks nothing (R217). DESIGN CHOICE (log 127): of an operand that fails R207 and a misaligned table
the first is raised; R217 gives no order. -/
def execYcat (p : Pred) (d : WReg) (a : YReg) (b c : WReg) : State → Host.Outcome State Fault Refusal :=
  perform (whole p do
    let n ← rdW c
    if 2 ^ 32 ≤ n.toNat then illegal
    else if n = 0 then do
      wrW d (word (2 ^ 64 - 1))
      pure .next
    else do
      let _ ← rdY a
      let table ← rdW b
      (if table.toNat % 8 ≠ 0 then trap 0x08 table else pure ())
      let w ← loadWord (table + 8 * (n - 1))
      let k ← searchLoop a table w.toNat 33 0 (n.toNat - 1)
      wrW d (word k)
      pure .next)

def extendTo (k : YReg) (len : Nat) : Nat → LReg → M Unit
  | 0, _ => pure ()
  | n + 1, y => if y.len < len then do
      let y ← extend k y
      extendTo k len n y
    else pure ()

def execYext (p : Pred) (d : YReg) (k : BitVec 3) : State → Host.Outcome State Fault Refusal :=
  perform (whole p do
    let y ← rdY d
    extendTo d (64 * k.toNat) 4 y
    pure .next)

def execYdig (p : Pred) (d : VReg) (a : WReg) : State → Host.Outcome State Fault Refusal :=
  perform (whole p do
    streamsBefore [] (some d)
    let s ← reserve a 16 d.val
    let bs ← (List.range 16).mapM (fun m => sourceBlock s.kind s.strm s.base (s.pos + word m))
    wrV d (BitVec.ofNat 1024 (vOfElems 64 (bs.map (·.toNat))))
    streamsAfter (some d)
    pure .next)

end Sys2Proof.Machine
end

