-- ==== Sys2Proof/Machine/Mailbox.lean ====
section
/-! DEFINITION. Mailbox.lean: the mailbox (R361 to R363) and its commands: RESYNC (R55), polders (R58, R337), power (R3), jobs (R35,
R364), groups (R376), code digests (R384), formation records (R385), reports (R352), measurement (R353), SPDM (R383), EXTEND
(R382), LIFECYCLE (R386). -/
namespace Sys2Proof.Machine

/-! The command block (R361). -/

def mbOp (b : List Byte) : Nat := fieldAt b 0 2
def mbLen (b : List Byte) : Nat := fieldAt b 4 4
def mbAddr (b : List Byte) : Nat := fieldAt b 8 8
def mbRep (b : List Byte) : Nat := fieldAt b 16 8
def mbRepLen (b : List Byte) : Nat := fieldAt b 24 4

/-- The block a function's mailbox is serving. -/
def State.mbBlock (s : State) (fn : Nat) : Option (List Byte) := (s.fn fn).mbreq.map (fun a => s.host.readBytes a 64)

/-- The block of further arguments; none when its read faults: its bytes are not all addresses that answer (R363, log 3). -/
def State.mbArgs (s : State) (b : List Byte) : Option (List Byte) :=
  let a := mbAddr b
  let n := mbLen b
  if 2 ^ 52 < a + n || s.hostHoles.any (fun h => decide (a < h.1 + h.2) && decide (h.1 < a + n)) then none else some (s.host.readBytes a n)

/-- Whole items that fit in some bytes, and whether one did not. -/
def fitItems : Nat → List (List Byte) → List Byte × Bool
  | _, [] => ([], false)
  | n, x :: t =>
    if n < x.length then ([], true)
    else let r := fitItems (n - x.length) t; (x ++ r.1, r.2)

/-- The reply to a block: header, whole items of the payload, vector 1 (log 53). -/
def State.replyTo (s : State) (fn : Nat) (b : List Byte) (status : Nat) (items : List (List Byte)) : State :=
  let (body, cut) := fitItems (mbRepLen b - 16) items
  let head := leBytes 4 (if cut then 6 else status) ++ (leBytes 4 body.length ++ leBytes 8 s.ccy.toNat)
  let x := s.fn fn
  { s with host := s.host.writeBytes (mbRep b) ((head ++ body).take (mbRepLen b)) }.setFn fn
    { x with mbdone := x.mbdone + 1, msix := x.msix ++ [1] }

/-- The command being served is answered. -/
def State.answer (s : State) (fn status : Nat) (items : List (List Byte)) : State :=
  match s.mbBlock fn with
  | none => s
  | some b =>
    let s := s.replyTo fn b status items
    s.setFn fn { s.fn fn with mbreq := none }

/-- A command goes on with its further arguments, or is answered UNREADABLE (R363). -/
def State.withArgs (s : State) (fn : Nat) (b : List Byte) (k : List Byte → State) : State :=
  match s.mbArgs b with
  | some a => k a
  | none => s.answer fn 5 []

/-- MBREQ written: a command while one is served is answered BUSY at once. -/
def State.mbRequest (s : State) (fn addr : Nat) : State :=
  let x := s.fn fn
  if x.mbreq.isSome then s.replyTo fn (s.host.readBytes addr 64) 1 []
  else s.setFn fn { x with mbreq := some addr }

/-- Commands only the physical function may issue (R362). -/
def physOnly (op : Nat) : Bool := decide (op < 0x08) || decide (0x0B < op)

/-- Bytes `o` to 63 of the block are zero. -/
def zeroFrom (b : List Byte) (o : Nat) : Bool := (b.drop o).all (fun x => x == 0)

/-- No block at ARGADDR. -/
def noArgs (b : List Byte) : Bool := mbLen b == 0 && mbAddr b == 0

/-- What R361 to R363 ask of every command: 0, or the status of its refusal (log 53). -/
def State.mbGate (s : State) (fn : Nat) (b : List Byte) : Nat :=
  let op := mbOp b
  if op = 0 || 0x0E < op then 2
  else if fn ≠ 0 && physOnly op then 3
  else if s.lifecycle ≠ 2 && 5 ≤ op && op ≤ 0x0B then 3
  else if fieldAt b 2 2 ≠ 0 || fieldAt b 28 4 ≠ 0 || mbRepLen b < 16 || ((s.fn fn).mbreq.getD 0) % 64 ≠ 0 then 2
  else 0

/-- A command served, when it is the one the mailbox holds. -/
def State.serve (s : State) (fn op : Nat) (body : List Byte → State) : Host.Outcome State Fault Refusal :=
  match s.mbBlock fn with
  | none => .next s
  | some b =>
    if mbOp b ≠ op then .next s
    else match s.mbGate fn b with
      | 0 => .next (body b)
      | k => .next (s.answer fn k [])

/-- The job a command acts on, when its JOBID field keeps R363. -/
def State.mbJob (s : State) (fn : Nat) (b : List Byte) : Option (Nat × Job) :=
  let v := fieldAt b 32 2
  if fn = 0 then (s.job? v).map (fun j => (v, j))
  else if v = 0 then (s.job? fn).map (fun j => (fn, j)) else none

/-! RESYNC (R55; log 50). -/

/-- Eight-byte values. -/
def words (l : List Nat) : List Byte := l.flatMap (leBytes 8)

/-- A section with its header. DESIGN CHOICE (log 123): the length in the header is that of what follows the header. -/
def sect (ty : Nat) (bs : List Byte) : List Byte := leBytes 2 ty ++ (leBytes 2 0 ++ (leBytes 4 bs.length ++ bs))

def Sluice.retired (x : Sluice) : Nat := x.repaired % 64 + 256 * (x.halved % 256) + 65536 * (x.off % 256)

/-- Where a gang stands for section 5: 2 dispatched, 1 ready, 0 neither; and whether it has failed (R55). -/
def Gang.stance (g : Gang) : List Nat :=
  [if g.dispatched then 2 else if g.readyAt.isSome then 1 else 0, if g.final == some 0x200 || g.final == some 0x202 then 1 else 0]

/-- Sections 2 to 10. DESIGN CHOICE (log 50): the values and their order; section 5 lists every gang the job has had since it was
created, one that has committed or ended as dispatched; the commands counted in section 4 are those of both ports of the stream. -/
def State.sections (s : State) : List (List Byte) :=
  let jobs := s.jobs
  let streams := jobs.flatMap (fun (e : Nat × Job) => (List.range 16).flatMap (fun k =>
    let x := e.2.stream k
    words [e.1, k, if x.opened then 1 else 0, x.head, x.tail, x.badwr.toNat, x.queue.length + x.overflow.length + x.cqueue.length]))
  let gangs := jobs.flatMap (fun (e : Nat × Job) => e.2.gangs.flatMap (fun (g : Nat × Gang) =>
    words ([e.1, g.1, g.2.ticket, g.2.desc.cls, s.epOf e.2 g.2] ++ g.2.stance)))
  let graphs := jobs.flatMap (fun (e : Nat × Job) => e.2.graphs.flatMap (fun (g : Graph) =>
    words [e.1, g.template, g.nodes.length, g.nodes.length] ++ g.nodes.flatMap (fun (n : GNode) => words [n.ticket, n.count])))
  let terr := jobs.flatMap (fun (e : Nat × Job) => words [e.1, s.jcb e.2 0x200 4] ++ s.mem.readBytes (e.2.jcbpa + 0x300) 72)
  let errsJ := jobs.flatMap (fun (e : Nat × Job) => words (e.1 :: (List.range 10).map (fun k => AMap.getD e.2.errs k 0)))
  let errsP := s.polders.flatMap (fun (e : Nat × Polder) => words (e.1 :: (List.range 11).map (fun k => AMap.getD e.2.errs k 0)))
  let posted := s.fns.flatMap (fun (e : Nat × Fn) =>
    ((List.range (e.2.fqtail - e.2.fqhead)).map (fun k => leBytes 8 e.1 ++
      s.host.readBytes (e.2.fqbase + 64 * ((e.2.fqhead + k) % e.2.fqsize)) 64)).flatten)
  [sect 2 (s.polders.flatMap (fun (e : Nat × Polder) => words ([e.2.qx0, e.2.qx1, e.2.qy0, e.2.qy1, 1, e.2.rot.length] ++
     e.2.rot.flatMap (fun r => [r.1, r.2.1, r.2.2])))),
   sect 3 (jobs.flatMap (fun (e : Nat × Job) =>
     words [e.1, e.2.floor, e.2.ceil, e.2.weight, s.ceilPrio e.2, e.2.liveGangs.length])),
   sect 4 streams, sect 5 gangs, sect 6 graphs, sect 7 terr,
   sect 8 ((List.range 6).flatMap (fun n => let x := s.sluice n
                                            words [x.rate, x.lanes, x.replays, x.crcerr, x.retired])),
   sect 9 (errsJ ++ errsP), sect 10 posted]

/-- The reply sections for a buffer of `room` bytes, the header with the length required and TRUNC. DESIGN CHOICE (log 123): that
length is of every section with its header, section 1 among them, and not of the 16 bytes before it. -/
def State.resyncItems (s : State) (room : Nat) : List (List Byte) :=
  let rest := s.sections
  let total := 32 + (rest.map (·.length)).foldl (· + ·) 0
  sect 1 (words [s.ccy.toNat, total, if room < total then 1 else 0]) :: rest

def execResync (fn : Nat) (s : State) : Host.Outcome State Fault Refusal :=
  match s.mbBlock fn with
  | none => .next s
  | some b =>
    if 2 ≤ mbOp b && mbOp b ≤ 0x0E then .next s
    else match s.mbGate fn b with
      | 0 => if zeroFrom b 32 && noArgs b then .next (s.answer fn 0 (s.resyncItems (mbRepLen b - 16))) else .next (s.answer fn 2 [])
      | k => .next (s.answer fn k [])

/-! Polders (R58, R241, R337). -/

/-- A MEMCFG value under the limits of R241, its reserved bits dropped (R10). -/
def memcfgValue (v : Nat) : Option Word :=
  let rw := v / 256 % 16
  let st := v / 4096 % 8
  let rg := v / 65536 % 256
  if rw ≤ 8 && st ≤ 4 && rw + st ≤ 12 && rg ≤ 128 then some (word (v % 4 + 256 * rw + 4096 * st + 65536 * rg)) else none

/-- A polder of a POLDER_SET entry. -/
def polderEntry (b : List Byte) : Option Polder :=
  let x0 := fieldAt b 0 1
  let x1 := fieldAt b 1 1
  let y0 := fieldAt b 2 1
  let y1 := fieldAt b 3 1
  if x0 ≤ x1 && x1 ≤ 3 && y0 ≤ y1 && y1 ≤ 3 && fieldAt b 4 4 = 0 then
    (memcfgValue (fieldAt b 8 8)).map (fun m => { qx0 := x0, qx1 := x1, qy0 := y0, qy1 := y1, memcfg := m, memNew := m })
  else none

def Polder.sameRect (p q : Polder) : Bool := p.qx0 == q.qx0 && p.qx1 == q.qx1 && p.qy0 == q.qy0 && p.qy1 == q.qy1

/-- A polder of the new layout: as it stands when its quadrants do not change, else with the registers of the polder that had
its lowest quadrant (log 56). -/
def State.newPolder (s : State) (p : Polder) : Polder :=
  match s.polders.find? (fun (e : Nat × Polder) => e.2.sameRect p), s.polders.find? (fun (e : Nat × Polder) => decide (e.2.lowest = p.lowest)) with
  | some e, _ => { e.2 with memNew := p.memNew }
  | none, some e => { p with bordercfg := e.2.bordercfg, borderNew := e.2.borderNew, errs := e.2.errs }
  | none, none => p

/-- A new layout: changed polders are reset, then jobs move to the polder that holds the lowest quadrant of theirs. -/
def State.setLayout (s : State) (ps : List Polder) : State :=
  let changed := (s.polders.filter (fun (e : Nat × Polder) => !ps.any (fun p => e.2.sameRect p))).map (·.1)
  let s := changed.foldl State.resetPolder s
  let news := ps.map (fun (p : Polder) => (p.lowest, s.newPolder p))
  let home (j : Job) : Nat := match news.find? (fun (e : Nat × Polder) => e.2.quads.contains j.polder) with
    | some e => e.1
    | none => j.polder
  let s := { s with polders := news, jobs := s.jobs.map (fun (e : Nat × Job) => (e.1, { e.2 with polder := home e.2 })) }
  (changed ++ news.map (·.1)).foldl (fun (s : State) q => if (AMap.get? s.coldPolder q).isSome then s else s.coolPolder q)
    { s with coldPolder := s.coldPolder.filter (fun e => !changed.contains e.1) }

/-- Rectangles that are disjoint and cover every quadrant. -/
def layoutOk (ps : List Polder) : Bool :=
  let qs := ps.flatMap (·.quads)
  decide (qs.length = 16) && (List.range 16).all (fun q => qs.contains q)

def execPolderSet (fn : Nat) (s : State) : Host.Outcome State Fault Refusal :=
  s.serve fn 0x02 (fun b =>
    let np := fieldAt b 32 2
    if np = 0 || 16 < np || mbLen b ≠ 16 * np || !zeroFrom b 34 then s.answer fn 2 []
    else s.withArgs fn b fun a =>
      match (List.range np).mapM (fun i => polderEntry ((a.drop (16 * i)).take 16)) with
      | some ps => if layoutOk ps then (s.setLayout ps).answer fn 0 [] else s.answer fn 2 []
      | none => s.answer fn 2 [])

def execPolderReset (fn : Nat) (s : State) : Host.Outcome State Fault Refusal :=
  s.serve fn 0x03 (fun b =>
    if noArgs b && zeroFrom b 33 && (s.polder? (fieldAt b 32 1)).isSome then (s.resetPolder (fieldAt b 32 1)).answer fn 0 []
    else s.answer fn 2 [])

def execPowerLimit (fn : Nat) (s : State) : Host.Outcome State Fault Refusal :=
  s.serve fn 0x04 (fun b =>
    let w := fieldAt b 32 4
    if noArgs b && zeroFrom b 36 && 1200 ≤ w && w ≤ 3000 then { s with power := w }.answer fn 0 [leBytes 8 w] else s.answer fn 2 [])

/-! Jobs (R35, R364). -/

/-- The hypervisor area of a new control block, its other bytes zero. -/
def State.newJcb (s : State) (pa jid floor ceil weight prio : Nat) : State :=
  let m := s.mem.zero pa 8192
  let area := leBytes 4 jid ++ (leBytes 2 floor ++ (leBytes 2 ceil ++ (leBytes 1 weight ++ leBytes 1 prio)))
  { s with mem := m.writeBytes (pa + 0x100) area, poison := clearPoison s.poison pa 8192 }

def execJobCreate (fn : Nat) (s : State) : Host.Outcome State Fault Refusal :=
  s.serve fn 0x05 (fun b =>
    let jid := fieldAt b 32 2
    let q := fieldAt b 34 1
    let weight := fieldAt b 35 1
    let floor := fieldAt b 36 2
    let ceil := fieldAt b 38 2
    let prio := fieldAt b 40 1
    let pa := fieldAt b 48 8
    let root := fieldAt b 56 8
    let ok := noArgs b && decide (1 ≤ jid) && decide (jid ≤ 255) && (s.job? jid).isNone && (s.polder? q).isSome
      && decide (1 ≤ weight) && decide (floor ≤ ceil) && decide (prio ≤ 31) && decide (fieldAt b 41 7 = 0)
      && decide (pa % 8192 = 0) && decide (pa < 2 ^ 52) && decide (root % 65536 = 0) && decide (root < 2 ^ 52)
    if !ok then s.answer fn 2 []
    else if !(List.range 576).any (fun n => s.seedable q n) then s.answer fn 4 []
    else
      let j : Job := { polder := q, jcbpa := pa, s2root := root, s2new := root, floor := floor, ceil := ceil, weight := weight }
      (((s.newJcb pa jid floor ceil weight prio).setJob jid j).setFn jid {}).answer fn 0 [])

/-- The tasks of a job stop on its tiles, which begin to be wiped; what it was to gain stays with its owner (R364 steps 1 and 2).
Commands that wait at its ports are served against its closed streams (R335). -/
def State.startDestroy (s : State) (jid : Nat) : State :=
  let s := (s.endGangs jid 0x201).dropBarges (fun b => decide (b.job = jid))
  let s := { s with tiles := s.tiles.map (fun (e : Nat × Tile) =>
    let t := e.2
    if ownedBy t.owner jid then
      let c : Cession := match t.cess with
        | some c => { c with taker := none }
        | none => { taker := none, start := s.ccy.toNat }
      (e.1, { t with run := none, saved := none, root := none, deque := [], cess := some c })
    else match t.cess with
      | some c => if c.taker.any (fun (x : Nat × Nat) => decide (x.1 = jid)) then
          (e.1, { t with cess := if c.wiping.isSome then some { c with taker := none } else none }) else e
      | none => e) }
  match s.job? jid with
  | some j => s.setJob jid { j.emptied with
      unseeded := false
      destroying := true
      ceil := 0 }
  | none => s

/-- Steps 3 and 4 once no tile is left: the virtual function goes (log 55). -/
def State.endDestroy (s : State) (jid : Nat) : State :=
  { s with
    jobs := AMap.erase s.jobs jid
    fns := (AMap.erase s.fns jid).map (fun (e : Nat × Fn) => (e.1, { e.2 with awaits := e.2.awaits.filter (fun a =>
      match a.target with
      | .task j _ => decide (j ≠ jid)
      | .frame j _ _ => decide (j ≠ jid)
      | .barge id => s.barges.any (fun b => decide (b.id = id))) }))
    groups := s.groups.filter (fun g => decide (g.job ≠ jid)) }

/-- No command waits at a port of a job. -/
def Job.portsEmpty (j : Job) : Bool := j.streams.all (fun (e : Nat × Stream) => e.2.queue.isEmpty && e.2.overflow.isEmpty && e.2.cqueue.isEmpty)

/-- A tile a job still owns. -/
def State.hasTiles (s : State) (jid : Nat) : Bool := s.tiles.any (fun e => ownedBy e.2.owner jid)

/-- JOB_DESTROY ends once no tile is owned and no command waits; what an OPEN that was waiting has let in is contained again. -/
def execJobDestroy (fn : Nat) (s : State) : Host.Outcome State Fault Refusal :=
  s.serve fn 0x06 (fun b =>
    let jid := fieldAt b 32 2
    match noArgs b && zeroFrom b 34, s.job? jid with
    | true, some j =>
      if !j.destroying then s.startDestroy jid
      else if s.hasTiles jid then s
      else if !j.liveGangs.isEmpty || !j.colls.isEmpty then s.endGangs jid 0x201
      else if !j.portsEmpty then s
      else (s.endDestroy jid).answer fn 0 []
    | _, _ => s.answer fn 2 [])

/-! Groups (R376). -/

def execGroupSet (fn : Nat) (s : State) : Host.Outcome State Fault Refusal :=
  s.serve fn 0x07 (fun b =>
    let num := fieldAt b 32 2
    let jid := fieldAt b 34 2
    let rank := fieldAt b 36 4
    let n := fieldAt b 40 4
    if !zeroFrom b 44 || n = 0 || 65536 < n || n ≤ rank || mbLen b ≠ 72 * n || (s.job? jid).isNone then s.answer fn 2 []
    else s.withArgs fn b fun a =>
      let table := (List.range n).map (fun i => (fieldAt a (72 * i) 8, BitVec.ofNat 512 (fieldAt a (72 * i + 8) 64)))
      if table.any (fun e => decide (2 ^ 24 ≤ e.1)) then s.answer fn 2 []
      else match s.group? num with
        | some g => ((s.setGroup { g with next := some (jid, rank, table) }).swapTable num).answer fn 0 []
        | none => { s with groups := s.groups ++ [({ num := num, job := jid, rank := rank, table := table } : Group)] }.answer fn 0 [])

/-! Code digests (R384). -/

/-- The code regions as a job's tables give them, by rising base (log 57). -/
def State.codeRegions (s : State) (jid : Nat) (j : Job) : Option (List Region) :=
  if !s.areaOk j then none
  else match s.regionTable jid (s.jcb j 0x18 8) (s.jcb j 0x14 4) with
    | .ok rs => some rs
    | .error _ => none

/-- The bytes the digest covers. -/
def State.codeBytes (s : State) (jid : Nat) (rs : List Region) : Option (List Byte) :=
  (sortBy (fun (a b : Region) => decide (a.base < b.base)) rs).foldlM (fun acc (r : Region) =>
    match s.devRead jid (s.jobSite jid) r.base r.len accLoad with
    | .ok (_, bs) => some (acc ++ (leBytes 8 r.base ++ (leBytes 8 r.len ++ bs)))
    | .error _ => none) []

/-- The code digest a record reports: zero once the regions are no longer those it was taken over (log 51). -/
def State.digestOf (s : State) (jid : Nat) (j : Job) : BitVec 512 :=
  if s.codeRegions jid j = some j.codeRegs then j.codeDigest else 0

def execCodeDigest (fn : Nat) (s : State) : Host.Outcome State Fault Refusal :=
  s.serve fn 0x08 (fun b =>
    match noArgs b && zeroFrom b 34, s.mbJob fn b with
    | true, some (jid, j) =>
      (match s.codeRegions jid j with
      | none => s.answer fn 5 []
      | some rs => match s.codeBytes jid rs with
        | none => s.answer fn 5 []
        | some bs =>
          let d := digestVal (sha512 bs)
          (s.setJob jid { j with codeDigest := d, codeRegs := rs }).answer fn 0 [digestBytes d])
    | _, _ => s.answer fn 2 [])

/-! Formation records (R385) and reports (R352). -/

/-- The group table as bytes. -/
def Group.bytes (g : Group) : List Byte := g.table.flatMap (fun e => leBytes 8 e.1 ++ leBytes 64 e.2.toNat)

def bitsOf (l : List Nat) : Nat := (l.map (fun k => 2 ^ k)).foldl (· + ·) 0

/-- Bytes 0 to 567 of a formation record. -/
def State.formationBody (s : State) (jid : Nat) (j : Job) (nonce : List Byte) (g : Option Group) : List Byte :=
  let quads := ((s.polder? j.polder).map (·.quads)).getD []
  let dies := ((s.polder? j.polder).map (·.dies)).getD []
  let grp := match g with
    | some g => leBytes 2 g.num ++ (leBytes 2 g.rank ++ leBytes 4 g.size)
    | none => leBytes 8 0
  let harvest := (List.range 4).flatMap (fun d => if dies.contains d then
    sha512 (((s.disc.drop (12 * d)).take 12).map (fun k => BitVec.ofNat 8 k)) else List.replicate 64 0)
  let sluices := (List.range 6).flatMap (fun n => let x := s.sluice n
                                                  leBytes 8 (x.cur + 65536 * x.lanes + 2 ^ 32 * min x.replays (2 ^ 32 - 1)))
  leBytes 2 1 ++ (leBytes 2 jid ++ (leBytes 4 (j.fseq + 1) ++ (leBytes 8 s.ccy.toNat ++ (nonce ++ (digestBytes Config.devid ++
    (grp ++ (leBytes 2 (bitsOf quads) ++ (leBytes 1 (bitsOf dies) ++ (leBytes 1 s.lifecycle ++
    (leBytes 1 (if g.isSome then 1 else 0) ++ (leBytes 3 0 ++ (harvest ++ (sluices ++ (digestBytes (s.digestOf jid j) ++
    ((match g with
      | some g => sha512 g.bytes
      | none => leBytes 64 0) ++ leBytes 8 0)))))))))))))))

def execFormation (fn : Nat) (s : State) : Host.Outcome State Fault Refusal :=
  s.serve fn 0x09 (fun b =>
    let gsel := fieldAt b 36 1
    match s.mbJob fn b with
    | none => s.answer fn 2 []
    | some (jid, j) =>
      let g := (s.group? (fieldAt b 34 2)).filter (fun g => decide (g.job = jid))
      if 1 < gsel || !zeroFrom b 37 || mbLen b ≠ 32 || (gsel = 1 && g.isNone) then s.answer fn 2 []
      else s.withArgs fn b fun a =>
        let body := s.formationBody jid j a (if gsel = 1 then g else none)
        ({ s with draws := s.draws + 1 }.setJob jid { j with fseq := j.fseq + 1 }).answer fn 0 [body ++ signed body s.draws])

/-- Bytes 0 to 631 of a report. -/
def State.reportBody (s : State) (jid : Nat) (j : Job) (nonce : List Byte) : List Byte :=
  leBytes 2 1 ++ (leBytes 2 jid ++ (leBytes 4 (j.rseq + 1) ++ (leBytes 8 s.ccy.toNat ++ (nonce ++ (digestBytes Config.devid ++
    (s.mem.readBytes (j.jcbpa + 0x400) 512 ++ leBytes 8 0))))))

def execReport (fn : Nat) (s : State) : Host.Outcome State Fault Refusal :=
  s.serve fn 0x0A (fun b =>
    match s.mbJob fn b with
    | none => s.answer fn 2 []
    | some (jid, _) =>
      if !zeroFrom b 34 || mbLen b ≠ 32 then s.answer fn 2 []
      else s.withArgs fn b fun a =>
        let s := s.flushMeter jid
        match s.job? jid with
        | none => s
        | some j =>
          let body := s.reportBody jid j a
          ({ s with draws := s.draws + 1 }.setJob jid { j with rseq := j.rseq + 1 }).answer fn 0 [body ++ signed body s.draws])

/-! Replay measurement (R353). -/

/-- A request block that keeps R353. -/
def measOk (a : List Byte) : Bool :=
  let nev := fieldAt a 8 1
  decide (1 ≤ nev) && decide (nev ≤ 12) && decide (fieldAt a 9 7 = 0)
    && (List.range nev).all (fun k => decide (1 ≤ fieldAt a (16 + k) 1) && decide (fieldAt a (16 + k) 1 ≤ 15))
    && decide (1 ≤ fieldAt a 28 4) && decide (fieldAt a 28 4 ≤ 4096) && decide (fieldAt a 32 8 % 8 = 0)
    && decide (fieldAt a 32 8 < 2 ^ 60) && decide (fieldAt a 40 24 = 0)

def measOf (a : List Byte) (fn : Nat) : Meas where
  events := (List.range (fieldAt a 8 1)).map (fun k => fieldAt a (16 + k) 1)
  wsmax := fieldAt a 28 4
  result := fieldAt a 32 8
  fn := fn
  pass := 1
  passes := (fieldAt a 8 1 + 3) / 4
  pages := []
  log := []
  counts := []
  mismatch := false
  logfull := false
  wsfull := false

def execMeasure (fn : Nat) (s : State) : Host.Outcome State Fault Refusal :=
  s.serve fn 0x0B (fun b =>
    match s.mbJob fn b with
    | none => s.answer fn 2 []
    | some (jid, j) =>
      if !zeroFrom b 34 || mbLen b ≠ 64 || j.destroying then s.answer fn 2 []
      else s.withArgs fn b fun a =>
        if !measOk a then s.answer fn 2 [] else match s.readLaunch jid j (fieldAt a 0 8) 0 (fun _ => 0) with
        | ([], some l) =>
          if l.desc.digest ≠ 0 then s.answer fn 2 []
          else
            let (s, gid, tk) := s.accept jid l 0 0 none
            (match s.gang? jid gid with
            | some g => (s.setGang jid gid { g with meas := some (measOf a fn) }).answer fn 0
                [leBytes 4 gid ++ (leBytes 4 0 ++ (leBytes 6 tk ++ leBytes 2 0))]
            | none => s)
        | (cs, _) => if lowest cs = some 0x10A then s.answer fn 5 [] else s.answer fn 2 [])

/-! SPDM (R383). Codes, layouts, bit numbers and the order of requests are those of the standard, which R383 names (PRESUMED,
log 58), as are the transcripts and what is signed. -/

/-- Requests the responder implements, with the stage of a session each needs: 0 always, 1 after GET_VERSION, 2 after
GET_CAPABILITIES, 3 after NEGOTIATE_ALGORITHMS. -/
def spdmNeeds (code : Nat) : Option Nat :=
  if code = 0x84 then some 0
  else if code = 0xE1 then some 1
  else if code = 0xE3 then some 2
  else if code = 0x81 || code = 0x82 || code = 0x83 || code = 0xE0 then some 3
  else none

def spdmCode (r : List Byte) : Nat := fieldAt r 1 1

/-- The stage the requests so far have reached. -/
def spdmStage (past : List (List Byte × List Byte)) : Nat :=
  past.foldl (fun st x =>
    if spdmCode x.1 = 0x84 then 1
    else if spdmCode x.1 = 0xE1 && st = 1 then 2
    else if spdmCode x.1 = 0xE3 && st = 2 then 3
    else st) 0

/-! Transcripts: requests and responses, those answered by ERROR left out. -/

/-- The exchanges after the last one that `p` names, or all. -/
def spdmSince (p : List Byte × List Byte → Bool) (past : List (List Byte × List Byte)) : List (List Byte × List Byte) :=
  past.foldl (fun l x => if p x then [] else l ++ [x]) []

def spdmGood (x : List Byte × List Byte) : Bool := spdmCode x.2 != 0x7F

def spdmBytes (l : List (List Byte × List Byte)) : List Byte := (l.filter spdmGood).flatMap (fun x => x.1 ++ x.2)

/-- The last exchange that opened the connection, and what follows it. -/
def spdmOpening (past : List (List Byte × List Byte)) : List (List Byte × List Byte) :=
  past.foldl (fun l x => if spdmCode x.1 = 0x84 then [x] else l ++ [x]) []

/-- Versions, capabilities and algorithms as they were settled. -/
def spdmVca (past : List (List Byte × List Byte)) : List Byte :=
  spdmBytes ((spdmOpening past).filter (fun x => [0x84, 0xE1, 0xE3].contains (spdmCode x.1)))

/-- What CHALLENGE_AUTH signs before the challenge itself: digests and certificates since the last challenge follow. -/
def spdmM (past : List (List Byte × List Byte)) : List Byte :=
  spdmVca past ++ spdmBytes ((spdmSince (fun x => spdmCode x.1 == 0x83 && spdmGood x) (spdmOpening past)).filter (fun x =>
    [0x81, 0x82].contains (spdmCode x.1)))

/-- What MEASUREMENTS signs before itself: the measurements in a row since the last signed ones follow. -/
def spdmL (past : List (List Byte × List Byte)) : List Byte :=
  spdmVca past ++ spdmBytes (spdmSince (fun x => spdmCode x.1 != 0xE0 || !spdmGood x || decide (fieldAt x.1 2 1 % 2 = 1)) past)

/-- The signature over a transcript, by its purpose: r and s over the prefix of version 1.3, then the transcript's SHA-512. -/
def spdmSign (context : String) (m : List Byte) (n : Nat) : List Byte :=
  let text (x : String) : List Byte := x.toList.map (fun c => BitVec.ofNat 8 c.toNat)
  let v := text "dmtf-spdm-v1.3.*"
  let c := text context
  signed (v ++ (v ++ (v ++ (v ++ (List.replicate (36 - c.length) 0 ++ (c ++ sha512 m)))))) n

/-- The header of a response of version 1.3. -/
def spdmHead (code p1 p2 : Nat) : List Byte := leBytes 1 0x13 ++ (leBytes 1 code ++ (leBytes 1 p1 ++ leBytes 1 p2))

/-- ERROR with a code. -/
def spdmError (code data : Nat) : List Byte := spdmHead 0x7F code data

/-- What only the device can give of an answer: free values, a fresh nonce first. -/
def State.spdmFree (s : State) (r : List Byte) : List Byte := Config.spdmResponse r s.draws
/-- 32 bytes of it. -/
def spdmNonce (free : List Byte) : List Byte := (List.range 32).map (fun i => free.getD i 0)

/-- VERSION: 1.3 alone. -/
def spdmVersion : List Byte := [0x10, 0x04, 0, 0, 0, 1, 0x00, 0x13]

/-- CAPABILITIES: CERT_CAP, CHAL_CAP, and MEAS_CAP with signature; times and sizes are the device's. -/
def spdmCapabilities (free : List Byte) : List Byte :=
  spdmHead 0x61 0 0 ++ (leBytes 1 0 ++ (leBytes 1 (fieldAt free 0 1) ++ (leBytes 2 0 ++ (leBytes 4 0x16 ++ leBytes 8 (fieldAt free 1 8)))))

/-- ALGORITHMS: of what the request offers, measurements in DMTF form hashed with SHA-512, ECDSA with P-521 and SHA-512. -/
def spdmAlgorithms (r : List Byte) : List Byte :=
  spdmHead 0x63 0 0 ++ (leBytes 2 36 ++ (leBytes 1 (fieldAt r 6 1 &&& 1) ++ (leBytes 1 0 ++ (leBytes 4 8 ++
    (leBytes 4 (fieldAt r 8 4 &&& 0x100) ++ (leBytes 4 (fieldAt r 12 4 &&& 4) ++ leBytes 16 0))))))

/-- DIGESTS: of the one chain, in slot 0. -/
def spdmDigests : List Byte := spdmHead 0x01 1 1 ++ sha512 Config.certChain

/-- CERTIFICATE: a portion of the chain of slot 0. -/
def spdmCertificate (r : List Byte) : List Byte :=
  let at_ := fieldAt r 4 2
  let total := Config.certChain.length
  let n := min (fieldAt r 6 2) (total - at_)
  if fieldAt r 2 1 % 16 ≠ 0 || total ≤ at_ then spdmError 0x01 0
  else spdmHead 0x02 0 0 ++ (leBytes 2 n ++ (leBytes 2 (total - at_ - n) ++ (Config.certChain.drop at_).take n))

/-- A measurement block: register k under index k + 1. -/
def State.measBlock (s : State) (k : Nat) : List Byte :=
  leBytes 1 (k + 1) ++ (leBytes 1 1 ++ (leBytes 2 67 ++ (leBytes 1 (Config.spdmKind k).toNat ++ (leBytes 2 64 ++
    digestBytes (AMap.getD s.meas k 0)))))

/-- CHALLENGE_AUTH for slot 0: the digest of its chain, a nonce, the digest of every measurement when all are asked for (of those of
the trusted base a free value), the requester's context, the signature. -/
def State.spdmChallenge (s : State) (r : List Byte) : List Byte :=
  let free := s.spdmFree r
  let kind := fieldAt r 3 1
  if fieldAt r 2 1 ≠ 0 || !([0, 1, 0xFF].contains kind) then spdmError 0x01 0
  else
    let sum := if kind = 0 then [] else if kind = 0xFF then sha512 ((List.range 16).flatMap (fun k => s.measBlock k))
      else (List.range 64).map (fun i => free.getD (32 + i) 0)
    let body := spdmHead 0x03 0 1 ++ (sha512 Config.certChain ++ (spdmNonce free ++ (sum ++ (leBytes 2 0 ++ leBytes 8 (fieldAt r 36 8)))))
    body ++ spdmSign "responder-challenge_auth signing" (spdmM s.spdm ++ (r ++ body)) s.draws

/-- MEASUREMENTS: the blocks asked for, a nonce, the requester's context, and the signature where slot 0 is asked for it. -/
def State.spdmMeasurements (s : State) (r : List Byte) : List Byte :=
  let which := fieldAt r 3 1
  let ks := if which = 0xFF then List.range 16 else if 1 ≤ which && which ≤ 16 then [which - 1] else []
  let blocks := ks.flatMap (fun k => s.measBlock k)
  let total := if which = 0 then 16 else 0
  let sign := decide (fieldAt r 2 1 % 2 = 1)
  if (16 < which && which ≠ 0xFF) || (sign && fieldAt r 36 1 % 16 ≠ 0) then spdmError 0x01 0
  else
    let body := spdmHead 0x60 total 0 ++ (leBytes 1 ks.length ++ (leBytes 3 blocks.length ++ (blocks ++ (spdmNonce (s.spdmFree r) ++
      (leBytes 2 0 ++ leBytes 8 (fieldAt r (if sign then 37 else 4) 8))))))
    if sign then body ++ spdmSign "responder-measurements signing" (spdmL s.spdm ++ (r ++ body)) s.draws else body

/-- The answer to one request. -/
def State.spdmAnswer (s : State) (r : List Byte) : List Byte :=
  let code := spdmCode r
  match spdmNeeds code with
  | none => spdmError 0x07 code
  | some n =>
    if s.keysErased && code ≠ 0x84 then spdmError 0x07 code
    else if spdmStage s.spdm < n then spdmError 0x04 0
    else if code = 0x84 then spdmVersion
    else if code = 0xE1 then spdmCapabilities (s.spdmFree r)
    else if code = 0xE3 then spdmAlgorithms r
    else if code = 0x81 then spdmDigests
    else if code = 0x82 then spdmCertificate r
    else if code = 0x83 then s.spdmChallenge r
    else s.spdmMeasurements r

def execSpdm (fn : Nat) (s : State) : Host.Outcome State Fault Refusal :=
  s.serve fn 0x0C (fun b =>
    let inl := mbAddr b = 0
    let respond (r : List Byte) : State := { s with spdm := s.spdm ++ [(r, s.spdmAnswer r)], draws := s.draws + 1 }.answer fn 0 [s.spdmAnswer r]
    if inl && (32 < mbLen b || !zeroFrom b (32 + mbLen b)) || (!inl && !zeroFrom b 32) then s.answer fn 2 []
    else if inl then respond ((b.drop 32).take (mbLen b))
    else s.withArgs fn b respond)

/-! Measurement registers and the life cycle (R382, R386). -/

def execExtend (fn : Nat) (s : State) : Host.Outcome State Fault Refusal :=
  s.serve fn 0x0D (fun b =>
    let k := fieldAt b 32 1
    if k < 8 || 15 < k || !zeroFrom b 33 || mbLen b ≠ 64 then s.answer fn 2 []
    else s.withArgs fn b fun a =>
      let v := extendVal (AMap.getD s.meas k 0) a
      { s with meas := AMap.set s.meas k v }.answer fn 0 [digestBytes v])

/-- The block is a LIFECYCLE query. -/
def isQuery (b : List Byte) : Bool := decide (fieldAt b 32 1 = 0xFF)

def execLifecycleQuery (fn : Nat) (s : State) : Host.Outcome State Fault Refusal :=
  s.serve fn 0x0E (fun b =>
    if !isQuery b then s
    else if !noArgs b || !zeroFrom b 33 then s.answer fn 2 []
    else s.answer fn 0 [leBytes 1 s.lifecycle ++ (leBytes 7 0 ++ (leBytes 8 s.lcseq.toNat ++
      (if s.ownerKey.isEmpty then leBytes 64 0 else sha512 s.ownerKey)))])

/-- The transitions of R386. -/
def lcNext (old new : Nat) : Bool := [(0, 1), (1, 2), (1, 3), (2, 1), (2, 3)].contains (old, new)

/-- A job destroyed at once: the wipe that follows leaves nothing of it. -/
def State.dropJob (s : State) (jid : Nat) : State := (s.endGangs jid 0x201).endDestroy jid

/-- Every register at zero: those of the tiles, polders, sluices and functions (R386, log 78). The command that is being served stays
with its mailbox. -/
def State.zeroRegs (s : State) : State :=
  { s with
    tiles := s.tiles.map (fun (e : Nat × Tile) => (e.1, { e.2 with owner := if e.2.owner == Owner.dead then .dead else .unowned, tenure := 0 }))
    polders := s.polders.map (fun (e : Nat × Polder) => (e.1,
      { e.2 with bordercfg := 0, borderNew := 0, memcfg := 0, memNew := 0, rot := [], lastSel := 0, waitPlace := [], errs := [] }))
    sluices := s.sluices.map (fun (e : Nat × Sluice) => (e.1,
      { e.2 with rsel := 0, cur := 0, train := false, replays := 0, crcerr := 0, replim := 0, crclim := 0, winReplays := 0, winCrc := 0 }))
    fns := s.fns.map (fun (e : Nat × Fn) => (e.1, { mbreq := e.2.mbreq, msix := e.2.msix })) }

/-- What every transition does. -/
def State.transition (s : State) (target : Nat) (key : List Byte) : State :=
  let s := ((s.jobs.map (·.1)).foldl State.dropJob s).wipeAll.zeroRegs
  { s with
    meas := AMap.set s.meas 5 (extendVal (AMap.getD s.meas 5 0) (leBytes 1 target))
    lcseq := s.lcseq + 1
    lifecycle := target
    ownerKey := if key.isEmpty then s.ownerKey else key
    keysErased := s.keysErased || decide (target = 3) }

def execLifecycleTransition (fn : Nat) (s : State) : Host.Outcome State Fault Refusal :=
  s.serve fn 0x0E (fun b =>
    if isQuery b then s
    else
      let target := fieldAt b 32 1
      if 3 < target || !zeroFrom b 33 || (mbLen b ≠ 132 && mbLen b ≠ 265) then s.answer fn 2 []
      else s.withArgs fn b fun a =>
        let key := a.drop 132
        let msg := digestBytes Config.devid ++ (leBytes 1 target ++ (leBytes 8 s.lcseq.toNat ++ key))
        let signer := if s.lifecycle = 0 then Config.firmwareKey else s.ownerKey
        let mayCarry := (s.lifecycle = 0 && target = 1) || (s.lifecycle = 2 && target = 1)
        if !lcNext s.lifecycle target || (s.lifecycle = 0 && key.isEmpty) then s.answer fn 3 []
        else if !key.isEmpty && !mayCarry then s.answer fn 2 []
        else if !Config.ecdsaVerify signer (digestVal (sha512 msg)) (a.take 66) ((a.drop 66).take 66) then s.answer fn 3 []
        else (s.transition target key).answer fn 0 [])

end Sys2Proof.Machine
end

