-- ==== Sys2Proof/Machine/Scalar.lean ====
section
/-! DEFINITION. Scalar.lean: groups 0x10 to 0x14 (R147 to R153). -/
namespace Sys2Proof.Machine

/-! Integer arithmetic (R149). -/

/-- An exact integer operation, saturated where asked, put into w(D) (R148, R149). -/
def intOp (ty : Ty) (sat : Bool) (d a : WReg) (b : OpB) (f : Int → Int → Int) : M Flow := do
  let x ← rdW a
  let y ← rdB b
  let v := saturate ty sat (f (intVal ty x) (intVal ty y))
  stickM v.2
  wrW d (putInt ty v.1)
  pure .next

/-- As `intOp` with a divisor: by zero the result is `z` of the dividend and DZ is set (R149, R184). DEDUCED: for a dividend of 0
too, where R189's table names a non-zero value only (log 115). -/
def intDivOp (ty : Ty) (sat : Bool) (d a : WReg) (b : OpB) (z : Int → Int) (f : Int → Int → Int) : M Flow := do
  let x ← rdW a
  let y ← rdB b
  let v := if intVal ty y = 0 then (z (intVal ty x), fDZ) else saturate ty sat (f (intVal ty x) (intVal ty y))
  stickM v.2
  wrW d (putInt ty v.1)
  pure .next

/-- As `intOp` with one operand (R149). -/
def intUnOp (ty : Ty) (sat : Bool) (d a : WReg) (f : Int → Int) : M Flow := do
  let x ← rdW a
  let v := saturate ty sat (f (intVal ty x))
  stickM v.2
  wrW d (putInt ty v.1)
  pure .next

/-- The high half of the exact product (R149). -/
def mulHigh (ty : Ty) (x y : Int) : Int := (x * y) / 2 ^ ty.bits

/-- The remainder, with the sign of the dividend (R149). -/
def remTrunc (x y : Int) : Int := x - y * x.tdiv y

def execIadd (p : Pred) (ty : Ty) (sat : Bool) (d a : WReg) (b : OpB) : State → Host.Outcome State Fault Refusal :=
  perform (whole p (intOp ty sat d a b (fun x y => x + y)))
def execIsub (p : Pred) (ty : Ty) (sat : Bool) (d a : WReg) (b : OpB) : State → Host.Outcome State Fault Refusal :=
  perform (whole p (intOp ty sat d a b (fun x y => x - y)))
def execImul (p : Pred) (ty : Ty) (sat : Bool) (d a : WReg) (b : OpB) : State → Host.Outcome State Fault Refusal :=
  perform (whole p (intOp ty sat d a b (fun x y => x * y)))
def execImulh (p : Pred) (ty : Ty) (d a : WReg) (b : OpB) : State → Host.Outcome State Fault Refusal :=
  perform (whole p (intOp ty false d a b (mulHigh ty)))
def execImulhn (p : Pred) (ty : Ty) (d a : WReg) (b : OpB) : State → Host.Outcome State Fault Refusal :=
  perform (whole p (intOp ty false d a b (mulHigh ty)))
def execIdiv (p : Pred) (ty : Ty) (sat : Bool) (d a : WReg) (b : OpB) : State → Host.Outcome State Fault Refusal :=
  perform (whole p (intDivOp ty sat d a b (fun _ => -1) Int.tdiv))
def execIdivn (p : Pred) (ty : Ty) (d a : WReg) (b : OpB) : State → Host.Outcome State Fault Refusal :=
  perform (whole p (intDivOp ty false d a b (fun _ => 2 ^ ty.bits - 1) Int.tdiv))
def execIrem (p : Pred) (ty : Ty) (d a : WReg) (b : OpB) : State → Host.Outcome State Fault Refusal :=
  perform (whole p (intDivOp ty false d a b (fun x => x) remTrunc))
def execIremn (p : Pred) (ty : Ty) (d a : WReg) (b : OpB) : State → Host.Outcome State Fault Refusal :=
  perform (whole p (intDivOp ty false d a b (fun x => x) remTrunc))
def execImin (p : Pred) (ty : Ty) (d a : WReg) (b : OpB) : State → Host.Outcome State Fault Refusal :=
  perform (whole p (intOp ty false d a b min))
def execImax (p : Pred) (ty : Ty) (d a : WReg) (b : OpB) : State → Host.Outcome State Fault Refusal :=
  perform (whole p (intOp ty false d a b max))
def execIminn (p : Pred) (ty : Ty) (d a : WReg) (b : OpB) : State → Host.Outcome State Fault Refusal :=
  perform (whole p (intOp ty false d a b min))
def execImaxn (p : Pred) (ty : Ty) (d a : WReg) (b : OpB) : State → Host.Outcome State Fault Refusal :=
  perform (whole p (intOp ty false d a b max))
def execIabs (p : Pred) (ty : Ty) (sat : Bool) (d a : WReg) : State → Host.Outcome State Fault Refusal :=
  perform (whole p (intUnOp ty sat d a (fun x => x.natAbs)))
def execIneg (p : Pred) (ty : Ty) (sat : Bool) (d a : WReg) : State → Host.Outcome State Fault Refusal :=
  perform (whole p (intUnOp ty sat d a (fun x => -x)))

/-! Logic, shift and count (R150). -/

/-- An operation on two 64-bit patterns. -/
def bitOp (d a : WReg) (b : OpB) (f : Word → Word → Word) : M Flow := do
  let x ← rdW a
  let y ← rdB b
  wrW d (f x y)
  pure .next

/-- An operation on one 64-bit pattern. -/
def bitUnOp (d a : WReg) (f : Word → Word) : M Flow := do
  let x ← rdW a
  wrW d (f x)
  pure .next

/-- b[5:0] of a shift (R150). -/
def shiftAmt (y : Word) : Nat := y.toNat % 64

/-- Zero bits from bit n − 1 down. -/
def leadZeros (x : Word) : Nat → Nat
  | 0 => 0
  | n + 1 => if x.getLsbD n then 0 else 1 + leadZeros x n

/-- Zero bits from bit 64 − n up. -/
def trailZeros (x : Word) : Nat → Nat
  | 0 => 0
  | n + 1 => if x.getLsbD (63 - n) then 0 else 1 + trailZeros x n

/-- One bits among bits n − 1 to 0. -/
def oneBits (x : Word) : Nat → Nat
  | 0 => 0
  | n + 1 => (if x.getLsbD n then 1 else 0) + oneBits x n

def execIand (p : Pred) (d a : WReg) (b : OpB) : State → Host.Outcome State Fault Refusal :=
  perform (whole p (bitOp d a b (fun x y => x &&& y)))
def execIor (p : Pred) (d a : WReg) (b : OpB) : State → Host.Outcome State Fault Refusal :=
  perform (whole p (bitOp d a b (fun x y => x ||| y)))
def execIxor (p : Pred) (d a : WReg) (b : OpB) : State → Host.Outcome State Fault Refusal :=
  perform (whole p (bitOp d a b (fun x y => x ^^^ y)))
def execIandn (p : Pred) (d a : WReg) (b : OpB) : State → Host.Outcome State Fault Refusal :=
  perform (whole p (bitOp d a b (fun x y => x &&& ~~~y)))
def execIshl (p : Pred) (d a : WReg) (b : OpB) : State → Host.Outcome State Fault Refusal :=
  perform (whole p (bitOp d a b (fun x y => x <<< shiftAmt y)))
def execIshr (p : Pred) (d a : WReg) (b : OpB) : State → Host.Outcome State Fault Refusal :=
  perform (whole p (bitOp d a b (fun x y => x >>> shiftAmt y)))
def execIsar (p : Pred) (d a : WReg) (b : OpB) : State → Host.Outcome State Fault Refusal :=
  perform (whole p (bitOp d a b (fun x y => x.sshiftRight (shiftAmt y))))
def execIrot (p : Pred) (d a : WReg) (b : OpB) : State → Host.Outcome State Fault Refusal :=
  perform (whole p (bitOp d a b (fun x y => x.rotateLeft (shiftAmt y))))
def execClz (p : Pred) (d a : WReg) : State → Host.Outcome State Fault Refusal :=
  perform (whole p (bitUnOp d a (fun x => word (leadZeros x 64))))
def execCtz (p : Pred) (d a : WReg) : State → Host.Outcome State Fault Refusal :=
  perform (whole p (bitUnOp d a (fun x => word (trailZeros x 64))))
def execPopc (p : Pred) (d a : WReg) : State → Host.Outcome State Fault Refusal :=
  perform (whole p (bitUnOp d a (fun x => word (oneBits x 64))))

/-! Compare and select (R151). -/

/-- Every bit of a flag register (R151). -/
def allBits (c : Bool) : FWord := if c then onesF else 0

/-- The comparison of two integers. -/
def intOrder (x y : Int) : Ordering := if x < y then .lt else if x = y then .eq else .gt

def execIcmp (p : Pred) (ty : Ty) (cond : Cond) (d : FReg) (a : WReg) (b : OpB) : State → Host.Outcome State Fault Refusal :=
  perform (whole p do
    let x ← rdW a
    let y ← rdB b
    wrF d (allBits (condHolds cond (some (intOrder (intVal ty x) (intVal ty y)))))
    pure .next)

def execIsel (p : Pred) (d a : WReg) (b : OpB) (c : FReg) : State → Host.Outcome State Fault Refusal :=
  perform (whole p do
    let f ← rdF c
    let x ← rdW a
    let y ← rdB b
    wrW d (if f.getLsbD 0 then x else y)
    pure .next)

/-! Bitfields (R152). -/

/-- The field of LEN bits at POS. -/
def fieldOf (x : Word) (pos len : Nat) : Nat := x.toNat / 2 ^ pos % 2 ^ len

/-- A field of LEN bits read as signed. -/
def signedField (v len : Nat) : Word := BitVec.ofInt 64 (if v < 2 ^ (len - 1) then (v : Int) else (v : Int) - 2 ^ len)

/-- x with the low LEN bits of y at POS. -/
def insField (x y : Word) (pos len : Nat) : Word :=
  let mask : Word := word ((2 ^ len - 1) * 2 ^ pos)
  (x &&& ~~~mask) ||| ((y <<< pos) &&& mask)

def execExt (p : Pred) (d a : WReg) (pos : BitVec 6) (len : BitVec 7) : State → Host.Outcome State Fault Refusal :=
  perform (whole p (bitUnOp d a (fun x => signedField (fieldOf x pos.toNat len.toNat) len.toNat)))
def execExtn (p : Pred) (d a : WReg) (pos : BitVec 6) (len : BitVec 7) : State → Host.Outcome State Fault Refusal :=
  perform (whole p (bitUnOp d a (fun x => word (fieldOf x pos.toNat len.toNat))))
def execIns (p : Pred) (d a : WReg) (pos : BitVec 6) (len : BitVec 7) : State → Host.Outcome State Fault Refusal :=
  perform (whole p do
    let x ← rdW d
    let y ← rdW a
    wrW d (insField x y pos.toNat len.toNat)
    pure .next)

/-! Immediates and addresses (R153). -/

def execLi (p : Pred) (d : WReg) (imm : Word) : State → Host.Outcome State Fault Refusal :=
  perform (whole p (andNext (wrW d imm)))

def execLea (p : Pred) (pcrel : Bool) (sh : BitVec 3) (d a : WReg) (b : OpB) : State → Host.Outcome State Fault Refusal :=
  perform (whole p do
    let base ← if pcrel then (do pure (← runM).pc) else rdW a
    let y ← rdB b
    wrW d (base + (y <<< sh.toNat))
    pure .next)

end Sys2Proof.Machine
end

