-- ==== Sys2Proof/Machine/Vector.lean ====
section
/-! DEFINITION. Vector.lean: groups 0x40 to 0x49 (R190 to R205). -/
namespace Sys2Proof.Machine

/-! Shared forms. -/

/-- The registers a rounding mode, or a B operand, reads. -/
def srRegs : Rnd → List VReg
  | .sr c => [c]
  | _ => []

def vbRegs : OpVB → List VReg
  | .reg b => [b]
  | .imm _ => []

/-- The words of SR (R183). -/
def srVec : Rnd → M VWord
  | .sr c => rdV c
  | _ => pure 0

/-- The B operand of a vector form (R191). -/
def rdVB (ty : Ty) : OpVB → M VWord
  | .reg b => rdV b
  | .imm v => pure (vImm ty.bits v)

/-- Vector operations counted under a type (R351). -/
def vmeter (ty : Ty) (d : Nat) : M Unit := meterM (16 + ty.code) d

/-- Lanes of a type (R133). -/
def laneCount (ty : Ty) : Nat := if ty.bits < 8 then 128 else 1024 / ty.bits

/-- Elements of enabled lanes. -/
def onElems (ty : Ty) (w : FWord) : List Nat := (List.range (1024 / ty.bits)).filter (fun j => w.getLsbD (laneOf ty.bits j))

/-- The union of flags. -/
def flagsOf (xs : List (Nat × Fl)) : Fl := xs.foldl (fun f x => f ||| x.2) 0

/-- Each enabled element of v(D) computed from its number; flags are the union (R192); `per` operations each (R351). -/
def mapElems (ty : Ty) (w : FWord) (d : VReg) (per : Nat) (f : Nat → Nat × Fl) : M Unit := do
  let es := onElems ty w
  let xs := es.map f
  stickM (flagsOf xs)
  let vals := es.zip (xs.map (·.1))
  modTile (fun t => t.setElems d ty.bits (fun j => w.getLsbD (laneOf ty.bits j))
    (vMerge ty.bits w (t.v d) (fun j => AMap.getD vals j 0)))
  vmeter ty (per * es.length)

/-- An integer lane's result (R192). -/
def intLane (ty : Ty) (sat : Bool) (x : Int) : Nat × Fl :=
  let v := saturate ty sat x
  ((v.1 % 2 ^ ty.bits).toNat, v.2)

/-- A floating lane's result: one rounding, NV for an invalid operation (R181, R184). -/
def fltLane (ty : Ty) (m : Rnd) (sat : Bool) (r : BitVec 32) (ops : List Num) (x : Num) : Nat × Fl :=
  let v := round ty m sat r x
  (v.1, v.2 ||| nvIf ops x)

/-- vadd, vsub and vmul (R195). -/
def arithOp (p : Pred) (ty : Ty) (m : Rnd) (sat : Bool) (d a : VReg) (b : OpVB) (fi : Int → Int → Int)
    (ff : Num → Num → Num) : M Flow :=
  laned p (laneCount ty) ([a] ++ vbRegs b ++ srRegs m) (some d) (fun w => do
    let x ← rdV a
    let y ← rdVB ty b
    let c ← srVec m
    let s := ty.bits
    mapElems ty w d 1 (fun j =>
      if ty.isInt then intLane ty sat (fi (intOf ty.signed s (vElem s x j)) (intOf ty.signed s (vElem s y j)))
      else
        let u := valueOf ty (vElem s x j)
        let v := valueOf ty (vElem s y j)
        fltLane ty m sat (srWord c j) [u, v] (ff u v)))

/-- min and max of two patterns of a type (R195, R184). -/
def minMaxPat (ty : Ty) (mx : Bool) (a b : Nat) : Nat :=
  match fmtOf ty with
  | some f => minMaxF f ty.bits mx a b
  | none =>
    let x := intOf ty.signed ty.bits a
    let y := intOf ty.signed ty.bits b
    if mx then (if x < y then b else a) else (if y < x then b else a)

/-- An operation on two patterns, without flags. -/
def patOp (p : Pred) (ty : Ty) (d a : VReg) (b : OpVB) (f : Nat → Nat → Nat) : M Flow :=
  laned p (laneCount ty) ([a] ++ vbRegs b) (some d) (fun w => do
    let x ← rdV a
    let y ← rdVB ty b
    mapElems ty w d 1 (fun j => (f (vElem ty.bits x j) (vElem ty.bits y j), 0)))

/-- vabs and vneg (R195). -/
def signOp (p : Pred) (ty : Ty) (sat : Bool) (d a : VReg) (fi : Int → Int) (fp : Nat → Nat) : M Flow :=
  laned p (laneCount ty) [a] (some d) (fun w => do
    let x ← rdV a
    let s := ty.bits
    mapElems ty w d 1 (fun j =>
      match fmtOf ty with
      | none => intLane ty sat (fi (intOf ty.signed s (vElem s x j)))
      | some f => if (floatVal f s (vElem s x j)).isNan then (f.nan, 0) else (fp (vElem s x j), 0)))

def execVadd (p : Pred) (ty : Ty) (m : Rnd) (sat : Bool) (d a : VReg) (b : OpVB) : State → Host.Outcome State Fault Refusal :=
  perform (arithOp p ty m sat d a b (fun x y => x + y) (Num.add (m == .rdn)))
def execVsub (p : Pred) (ty : Ty) (m : Rnd) (sat : Bool) (d a : VReg) (b : OpVB) : State → Host.Outcome State Fault Refusal :=
  perform (arithOp p ty m sat d a b (fun x y => x - y) (fun x y => Num.add (m == .rdn) x y.neg))
def execVmul (p : Pred) (ty : Ty) (m : Rnd) (sat : Bool) (d a : VReg) (b : OpVB) : State → Host.Outcome State Fault Refusal :=
  perform (arithOp p ty m sat d a b (fun x y => x * y) Num.mul)
def execVmin (p : Pred) (ty : Ty) (d a : VReg) (b : OpVB) : State → Host.Outcome State Fault Refusal :=
  perform (patOp p ty d a b (minMaxPat ty false))
def execVmax (p : Pred) (ty : Ty) (d a : VReg) (b : OpVB) : State → Host.Outcome State Fault Refusal :=
  perform (patOp p ty d a b (minMaxPat ty true))
def execVabs (p : Pred) (ty : Ty) (sat : Bool) (d a : VReg) : State → Host.Outcome State Fault Refusal :=
  perform (signOp p ty sat d a (fun x => x.natAbs) (fun x => x % 2 ^ (ty.bits - 1)))
def execVneg (p : Pred) (ty : Ty) (sat : Bool) (d a : VReg) : State → Host.Outcome State Fault Refusal :=
  perform (signOp p ty sat d a (fun x => -x) (fun x => x ^^^ 2 ^ (ty.bits - 1)))

/-! Fused multiply-add (R196). -/

def fmaOp (p : Pred) (ty : Ty) (m : Rnd) (sat : Bool) (d a : VReg) (b : OpVB) (f : Num → Num → Num) : M Flow :=
  laned p (laneCount ty) ([d, a] ++ vbRegs b ++ srRegs m) (some d) (fun w => do
    let z ← rdV d
    let x ← rdV a
    let y ← rdVB ty b
    let c ← srVec m
    let s := ty.bits
    mapElems ty w d 2 (fun j =>
      let u := valueOf ty (vElem s x j)
      let v := valueOf ty (vElem s y j)
      let e := valueOf ty (vElem s z j)
      fltLane ty m sat (srWord c j) [u, v, e] (f (u.mul v) e)))

def execVfma (p : Pred) (ty : Ty) (m : Rnd) (sat : Bool) (d a : VReg) (b : OpVB) : State → Host.Outcome State Fault Refusal :=
  perform (fmaOp p ty m sat d a b (fun q e => Num.add (m == .rdn) q e))
def execVfms (p : Pred) (ty : Ty) (m : Rnd) (sat : Bool) (d a : VReg) (b : OpVB) : State → Host.Outcome State Fault Refusal :=
  perform (fmaOp p ty m sat d a b (fun q e => Num.add (m == .rdn) q e.neg))
def execVfnma (p : Pred) (ty : Ty) (m : Rnd) (sat : Bool) (d a : VReg) (b : OpVB) : State → Host.Outcome State Fault Refusal :=
  perform (fmaOp p ty m sat d a b (fun q e => Num.add (m == .rdn) e q.neg))

/-! Logic and shifts (R197). -/

/-- b(j)[log2 s − 1 : 0] for a width of s bits. -/
def laneShift (s b : Nat) : Nat := b % s

def execVand (p : Pred) (ty : Ty) (d a : VReg) (b : OpVB) : State → Host.Outcome State Fault Refusal :=
  perform (patOp p ty d a b (fun x y => x &&& y))
def execVor (p : Pred) (ty : Ty) (d a : VReg) (b : OpVB) : State → Host.Outcome State Fault Refusal :=
  perform (patOp p ty d a b (fun x y => x ||| y))
def execVxor (p : Pred) (ty : Ty) (d a : VReg) (b : OpVB) : State → Host.Outcome State Fault Refusal :=
  perform (patOp p ty d a b (fun x y => x ^^^ y))
def execVshl (p : Pred) (ty : Ty) (d a : VReg) (b : OpVB) : State → Host.Outcome State Fault Refusal :=
  perform (patOp p ty d a b (fun x y => x * 2 ^ laneShift ty.bits y % 2 ^ ty.bits))
def execVshr (p : Pred) (ty : Ty) (d a : VReg) (b : OpVB) : State → Host.Outcome State Fault Refusal :=
  perform (patOp p ty d a b (fun x y => x / 2 ^ laneShift ty.bits y))
def execVsar (p : Pred) (ty : Ty) (d a : VReg) (b : OpVB) : State → Host.Outcome State Fault Refusal :=
  perform (patOp p ty d a b (fun x y => (intOf true ty.bits x / 2 ^ laneShift ty.bits y % 2 ^ ty.bits).toNat))

/-! Compare and select (R198). -/

/-- a COND b on patterns of a type. -/
def patCmp (ty : Ty) (cond : Cond) (a b : Nat) : Bool :=
  match fmtOf ty with
  | some f => condHolds cond ((floatVal f ty.bits a).order (floatVal f ty.bits b))
  | none => condHolds cond (some (compare (intOf ty.signed ty.bits a) (intOf ty.signed ty.bits b)))

/-- Bits of a flag register: those of enabled lanes below n new, the others old. -/
def fMerge (n : Nat) (w old : FWord) (new : Nat → Bool) : FWord :=
  BitVec.ofNat 128 (vOfElems 1 ((List.range 128).map (fun j =>
    if (if j < n && w.getLsbD j then new j else old.getLsbD j) then 1 else 0)))

def execVcmp (p : Pred) (ty : Ty) (cond : Cond) (d : FReg) (a : VReg) (b : OpVB) : State → Host.Outcome State Fault Refusal :=
  perform (laned p (laneCount ty) ([a] ++ vbRegs b) none (fun w => do
    let x ← rdV a
    let y ← rdVB ty b
    modTile (fun t => t.setBits d (fun j => decide (j < laneCount ty) && w.getLsbD j) (fMerge (laneCount ty) w (t.f d)
      (fun j => patCmp ty cond (vElem ty.bits x j) (vElem ty.bits y j))))
    vmeter ty (onElems ty w).length))

def execVsel (p : Pred) (ty : Ty) (d a : VReg) (b : OpVB) (c : FReg) : State → Host.Outcome State Fault Refusal :=
  perform (laned p (laneCount ty) ([a] ++ vbRegs b) (some d) (fun w => do
    let x ← rdV a
    let y ← rdVB ty b
    let f ← rdF c
    let s := ty.bits
    mapElems ty w d 1 (fun j => ((if f.getLsbD (laneOf s j) then vElem s x j else vElem s y j), 0))))

/-! Conversion (R199, R200). -/

/-- Destination elements and the source element of each (R199). -/
def cvtPairs (ty sty : Ty) (part : Nat) : List (Nat × Nat) :=
  if sty.bits ≤ ty.bits then (List.range (1024 / ty.bits)).map (fun e => (e, e + part * (1024 / ty.bits)))
  else (List.range (1024 / sty.bits)).map (fun e => (e + part * (1024 / sty.bits), e))

/-- A conversion: each destination element of an enabled lane from its source's exact value and the scale. -/
def cvtOp (p : Pred) (ty sty : Ty) (part : BitVec 3) (m : Rnd) (d a : VReg) (scale : M Word)
    (f : BitVec 32 → Num → Nat → Nat × Fl) : M Flow :=
  let ps := cvtPairs ty sty part.toNat
  lanedOn p (ps.map (fun e => laneOf ty.bits e.1)) ([a] ++ srRegs m) (some d) (fun w => do
    let x ← rdV a
    let c ← srVec m
    let sc ← scale
    let on := ps.filter (fun e => w.getLsbD (laneOf ty.bits e.1))
    let xs := on.map (fun e => f (srWord c e.1) (valueOf sty (vElem sty.bits x e.2)) sc.toNat)
    stickM (flagsOf xs)
    let vals := (on.map (·.1)).zip (xs.map (·.1))
    modTile (fun t =>
      let old := t.v d
      t.setElems d ty.bits (fun j => (AMap.get? vals j).isSome)
        (BitVec.ofNat 1024 (vOfElems ty.bits ((List.range (1024 / ty.bits)).map (fun j =>
        match AMap.get? vals j with
        | some v => v
        | none => vElem ty.bits old j)))))
    vmeter ty on.length)

def execVcvt (p : Pred) (ty sty : Ty) (part : BitVec 3) (m : Rnd) (sat : Bool) (d a : VReg) :
    State → Host.Outcome State Fault Refusal :=
  perform (cvtOp p ty sty part m d a (pure 0) (fun r x _ => round ty m (sat && ty != sty) r x))
def execVquant (p : Pred) (ty sty : Ty) (part : BitVec 3) (m : Rnd) (sat : Bool) (d a : VReg) (b : WReg) :
    State → Host.Outcome State Fault Refusal :=
  perform (cvtOp p ty sty part m d a (rdW b) (fun r x w => scaleDivRound ty m sat r x (w % 2 ^ 20)))
def execVdq (p : Pred) (ty sty : Ty) (part : BitVec 3) (m : Rnd) (sat : Bool) (d a : VReg) (b : WReg) :
    State → Host.Outcome State Fault Refusal :=
  perform (cvtOp p ty sty part m d a (rdW b) (fun r x w =>
    let y := scaleMul x (w % 2 ^ 20)
    let v := round ty m sat r y.1
    (v.1, v.2 ||| y.2)))

/-! Reductions and dot products (R201). -/

/-- An integer accumulation into 64 bits, saturated where asked. -/
def accInt (signed sat : Bool) (x : Int) : Word × Fl :=
  let ty := if signed then Ty.s64 else Ty.n64
  let v := saturate ty sat x
  (putInt ty v.1, v.2)

/-- vredsum and vdot: terms over the elements of enabled lanes. -/
def sumOp (p : Pred) (ty : Ty) (m : Rnd) (sat : Bool) (d : WReg) (vs : List VReg) (per : Nat) : M Flow :=
  laned p (laneCount ty) (vs ++ srRegs m) none (fun w => do
    let acc ← rdW d
    let xs ← vs.mapM rdV
    let c ← srVec m
    let s := ty.bits
    let es := onElems ty w
    let res : Word × Fl := if (fmtOf ty).isSome then
        let v := windowSum (acc.toNat % 2 ^ 32) (es.map (fun j => Term.prod (xs.map (fun x => valueOf ty (vElem s x j))))) m sat
          (BitVec.ofNat 32 c.toNat)
        (word v.1, v.2)
      else accInt ty.signed sat ((if ty.signed then acc.toInt else acc.toNat) + (es.map (fun j =>
        (xs.map (fun x => intOf ty.signed s (vElem s x j))).foldl (· * ·) 1)).foldl (· + ·) 0)
    stickM res.2
    wrW d res.1
    vmeter ty (per * es.length))

/-- A pattern of a type as the 64 bits of a scalar register. -/
def extPat (ty : Ty) (x : Nat) : Word := if ty.isInt then putInt ty (x : Int) else word x

/-- vredmax and vredmin: the bound of w(D) and the elements. -/
def boundOp (p : Pred) (ty : Ty) (mx : Bool) (d : WReg) (a : VReg) : M Flow :=
  laned p (laneCount ty) [a] none (fun w => do
    let acc ← rdW d
    let x ← rdV a
    let es := onElems ty w
    wrW d (extPat ty (es.foldl (fun z j => minMaxPat ty mx z (vElem ty.bits x j)) (acc.toNat % 2 ^ ty.bits)))
    vmeter ty es.length)

/-- The magnitude of a pattern: an integer as a natural, a floating pattern with its sign bit clear. -/
def absPat (ty : Ty) (x : Nat) : Nat :=
  match fmtOf ty with
  | some _ => x % 2 ^ (ty.bits - 1)
  | none => (intOf ty.signed ty.bits x).natAbs

/-- The greater of two magnitudes (R201, R184). -/
def maxAbs (ty : Ty) (a b : Nat) : Nat :=
  match fmtOf ty with
  | some f => minMaxF f ty.bits true a b
  | none => max a b

def execVredsum (p : Pred) (ty : Ty) (m : Rnd) (sat : Bool) (d : WReg) (a : VReg) : State → Host.Outcome State Fault Refusal :=
  perform (sumOp p ty m sat d [a] 1)
def execVredmax (p : Pred) (ty : Ty) (d : WReg) (a : VReg) : State → Host.Outcome State Fault Refusal :=
  perform (boundOp p ty true d a)
def execVredmin (p : Pred) (ty : Ty) (d : WReg) (a : VReg) : State → Host.Outcome State Fault Refusal :=
  perform (boundOp p ty false d a)
def execVamax (p : Pred) (ty : Ty) (d : WReg) (a : VReg) : State → Host.Outcome State Fault Refusal :=
  perform (laned p (laneCount ty) [a] none (fun w => do
    let acc ← rdW d
    let x ← rdV a
    let es := onElems ty w
    wrW d (word (es.foldl (fun z j => maxAbs ty z (absPat ty (vElem ty.bits x j))) (absPat ty (acc.toNat % 2 ^ ty.bits))))
    vmeter ty es.length))
def execVdot (p : Pred) (ty : Ty) (m : Rnd) (sat : Bool) (d : WReg) (a b : VReg) : State → Host.Outcome State Fault Refusal :=
  perform (sumOp p ty m sat d [a, b] 2)

/-! Permutes and lane moves (R202, R203). -/

/-- Each enabled element of v(D) chosen from two vectors. -/
def permOp (p : Pred) (ty : Ty) (d a b : VReg) (f : VWord → VWord → Nat → Nat) : M Flow :=
  laned p (laneCount ty) [a, b] (some d) (fun w => do
    let x ← rdV a
    let y ← rdV b
    mapElems ty w d 1 (fun j => (f x y j, 0)))

/-- Element i of the concatenation (R202). -/
def concatElem (s : Nat) (x y : VWord) (i : Nat) : Nat :=
  if i < 1024 / s then vElem s x i else vElem s y (i - 1024 / s)

def execVperm (p : Pred) (ty : Ty) (d a b : VReg) : State → Host.Outcome State Fault Refusal :=
  perform (permOp p ty d a b (fun x y j => vElem ty.bits x (vElem ty.bits y j % (1024 / ty.bits))))
def execVbcast (p : Pred) (ty : Ty) (d : VReg) (a : WReg) : State → Host.Outcome State Fault Refusal :=
  perform (laned p (laneCount ty) [] (some d) (fun w => do
    let x ← rdW a
    mapElems ty w d 1 (fun _ => (x.toNat % 2 ^ ty.bits, 0))))
def execVslide (p : Pred) (ty : Ty) (k : BitVec 9) (d a b : VReg) : State → Host.Outcome State Fault Refusal :=
  perform (permOp p ty d a b (fun x y j => concatElem ty.bits x y (j + k.toNat)))
def execVzip (p : Pred) (ty : Ty) (part : Bool) (d a b : VReg) : State → Host.Outcome State Fault Refusal :=
  perform (permOp p ty d a b (fun x y j =>
    let i := j / 2 + (if part then 1024 / ty.bits / 2 else 0)
    if j % 2 = 0 then vElem ty.bits x i else vElem ty.bits y i))
def execVunzip (p : Pred) (ty : Ty) (part : Bool) (d a b : VReg) : State → Host.Outcome State Fault Refusal :=
  perform (permOp p ty d a b (fun x y j => concatElem ty.bits x y (2 * j + (if part then 1 else 0))))

/-- The index of vins and vext (R203). -/
def laneIndex (ty : Ty) : OpB → M Nat
  | .imm v => pure v.toNat
  | .reg b => do
    let x ← rdW b
    pure (x.toNat % (1024 / ty.bits))

/-- An instruction of the one lane that an operand names: with no lane of the predicate on, the operand is not read either (R95). -/
def oneLane (p : Pred) (ty : Ty) (b : OpB) (body : Nat → M Flow) : M Flow := do
  let w ← rdPred p
  if (List.range (1024 / ty.bits)).any (fun j => w.getLsbD j) then body (← laneIndex ty b) else pure .next

def execVins (p : Pred) (ty : Ty) (d : VReg) (a : WReg) (b : OpB) : State → Host.Outcome State Fault Refusal :=
  perform (oneLane p ty b (fun i =>
    lanedOn p [i] [d] (some d) (fun _ => do
      let x ← rdW a
      let old ← rdV d
      wrV d (vMerge ty.bits (BitVec.ofNat 128 (2 ^ i)) old (fun _ => x.toNat % 2 ^ ty.bits))
      vmeter ty 1)))
def execVext (p : Pred) (ty : Ty) (d : WReg) (a : VReg) (b : OpB) : State → Host.Outcome State Fault Refusal :=
  perform (oneLane p ty b (fun i =>
    lanedOn p [i] [a] none (fun _ => do
      let x ← rdV a
      wrW d (putInt ty (vElem ty.bits x i))
      vmeter ty 1)))

/-! Special functions (R204). -/

def specialOp (fn : Special) (p : Pred) (ty : Ty) (m : Rnd) (sat : Bool) (d a : VReg) : M Flow :=
  laned p (laneCount ty) ([a] ++ srRegs m) (some d) (fun w => do
    let x ← rdV a
    let c ← srVec m
    mapElems ty w d 1 (fun j => special fn ty m sat (srWord c j) (valueOf ty (vElem ty.bits x j))))

def execVrecip (p : Pred) (ty : Ty) (m : Rnd) (sat : Bool) (d a : VReg) : State → Host.Outcome State Fault Refusal :=
  perform (specialOp .recip p ty m sat d a)
def execVrsqrt (p : Pred) (ty : Ty) (m : Rnd) (sat : Bool) (d a : VReg) : State → Host.Outcome State Fault Refusal :=
  perform (specialOp .rsqrt p ty m sat d a)
def execVexp2 (p : Pred) (ty : Ty) (m : Rnd) (sat : Bool) (d a : VReg) : State → Host.Outcome State Fault Refusal :=
  perform (specialOp .exp2 p ty m sat d a)
def execVlog2 (p : Pred) (ty : Ty) (m : Rnd) (sat : Bool) (d a : VReg) : State → Host.Outcome State Fault Refusal :=
  perform (specialOp .log2 p ty m sat d a)

/-! Flag-register operations (R205). -/

/-- Bits of f(D) from those of f(A) and f(B), each enabled bit. -/
def flagOp (p : Pred) (d a b : FReg) (f : Bool → Bool → Bool) : M Flow :=
  laned p 128 [] none (fun w => do
    let x ← rdF a
    let y ← rdF b
    modTile (fun t => t.setBits d (fun j => w.getLsbD j) (fMerge 128 w (t.f d) (fun j => f (x.getLsbD j) (y.getLsbD j))))
    vmeter .n8 (onLanes w 128).length)

/-- A number computed from the enabled lanes of f(A) that are set. -/
def flagCount (p : Pred) (ty : Ty) (d : WReg) (a : FReg) (f : List Nat → Nat) : M Flow :=
  laned p (1024 / ty.bits) [] none (fun w => do
    let x ← rdF a
    let on := onLanes w (1024 / ty.bits)
    wrW d (word (f (on.filter (fun j => x.getLsbD j))))
    vmeter .n8 on.length)

def execFand (p : Pred) (d a b : FReg) : State → Host.Outcome State Fault Refusal := perform (flagOp p d a b (· && ·))
def execFor (p : Pred) (d a b : FReg) : State → Host.Outcome State Fault Refusal := perform (flagOp p d a b (· || ·))
def execFxor (p : Pred) (d a b : FReg) : State → Host.Outcome State Fault Refusal := perform (flagOp p d a b (· != ·))
def execFnot (p : Pred) (d a : FReg) : State → Host.Outcome State Fault Refusal := perform (flagOp p d a a (fun x _ => !x))
def execFpop (p : Pred) (ty : Ty) (d : WReg) (a : FReg) : State → Host.Outcome State Fault Refusal :=
  perform (flagCount p ty d a List.length)
def execFfirst (p : Pred) (ty : Ty) (d : WReg) (a : FReg) : State → Host.Outcome State Fault Refusal :=
  perform (flagCount p ty d a (fun on => on.headD (1024 / ty.bits)))

end Sys2Proof.Machine
end

