-- ==== Sys2Proof/Machine/World.lean ====
section
/-! DEFINITION. World.lean: sluices (R365 to R371), the fabric's timeouts (R373), the registers of the functions (R10, R356 to R361), host
accesses (R39, R288, R356). -/
namespace Sys2Proof.Machine

/-! Sluices. -/

/-- RSEL written: another rate than CUR retrains the sluice, whose flits in flight are sent again; a reserved code is ignored (R366,
R367). -/
def State.writeRate (s : State) (n : Nat) (v : Word) : State :=
  let k := v.toNat % 8
  let x := s.sluice n
  if 5 ≤ k || 6 ≤ n then s
  else if k = x.cur || x.train then s.setSluice n { x with rsel := k }
  else (s.replayAll n).setSluice n { x with rsel := k, train := true }

def execRselWrite (sluice : Nat) (v : Word) (s : State) : Host.Outcome State Fault Refusal := .next (s.writeRate sluice v)

/-- What follows when a sluice can no longer carry traffic (R371). -/
def State.sluiceLost (s : State) (n : Nat) : State :=
  if n < 4 then
    let hit := s.polders.filter (fun (e : Nat × Polder) => (sluiceDies n).all (fun d => e.2.dies.contains d))
    (hit.map (·.1)).foldl State.resetPolder s
  else if (s.sluice 4).lanes < 64 && (s.sluice 5).lanes < 64 then { s.resetAll with fns := [], hostLost := true }
  else s

/-- A retraining ends. -/
def State.retrain (s : State) (n : Nat) (failing : List (Nat × Nat)) : State :=
  let x := s.sluice n
  if !x.train || 6 ≤ n then s
  else
    let y := x.retrained failing
    let s := s.trained n x y
    if y.lanes < 64 && 64 ≤ x.lanes then s.sluiceLost n else s

def execSluiceRetrainComplete (sluice : Nat) (failing : List (Nat × Nat)) (s : State) : Host.Outcome State Fault Refusal :=
  .next (s.retrain sluice failing)

/-- A window of 2^20 cycles has ended: replays over REPLIM are reported, CRC errors over CRCLIM step the rate down (R366, R367,
R370). -/
def State.windowEnd (s : State) (n : Nat) : State :=
  let x := s.sluice n
  let w := s.ccy.toNat / 2 ^ 20
  if w ≤ x.win || 6 ≤ n then s
  else
    let y := { x with win := w, winReplays := x.replays, winCrc := x.crcerr }
    let s := if x.replim < x.replays - x.winReplays then s.degraded n 3 x x else s
    if x.crclim < x.crcerr - x.winCrc && 0 < x.cur then
      let z := { y with cur := x.cur - 1, rsel := x.cur - 1, train := true }
      ((if x.train then s else s.replayAll n).setSluice n z).degraded n 1 x z
    else s.setSluice n y

def execSluiceWindowEnd (sluice : Nat) (s : State) : Host.Outcome State Fault Refusal := .next (s.windowEnd sluice)

/-- A flit of a class fails its CRC in one direction: one more error, one more replay episode. It and the flits behind it are sent
again under their sequence numbers; whichever copy comes second is discarded (R368). -/
def execFlitCrcFail (f : Flit) (s : State) : Host.Outcome State Fault Refusal :=
  if 6 ≤ f.sluice then .next s
  else
    let x := s.sluice f.sluice
    .next ({ s with dhq := s.dhq ++ (if f.cls = 2 then s.replayed f.sluice f.dir f.seq else []) }.setSluice f.sluice
      { x with crcerr := satAdd x.crcerr 1, replays := satAdd x.replays 1 })

/-! The fabric (R373, R380). -/

/-- Cycles between heartbeats: 10 µs. -/
abbrev beatCycles : Nat := 12000

def execFabricHeartbeat (s : State) : Host.Outcome State Fault Refusal :=
  let k := s.ccy.toNat / beatCycles
  if k ≤ s.timers.beat then .next s else .next { s with beats := s.beats + 1, timers := { s.timers with beat := k } }

/-- The collectives of groups that name a failed package end FAILED unless they have been announced (R380). -/
def State.losePackage (s : State) (addr : Nat) : State :=
  let lost (g : Group) : Bool := g.table.any (fun e => decide (e.1 = addr))
  let nums := (s.groups.filter lost).map (·.num)
  { s with
    groups := s.groups.map (fun (g : Group) => if lost g then { g with lost := true } else g)
    jobs := s.jobs.map (fun (e : Nat × Job) => (e.1, { e.2 with colls := e.2.colls.map (fun (c : Coll) =>
      if nums.contains c.group && !c.announced then { c with failed := true } else c) })) }

/-- A link (1), switch (2) or package (3) declared failed: KIND 20 records, and for a package its groups' collectives. -/
def State.fabricFail (s : State) (level addr : Nat) : State :=
  if level = 0 || 3 < level then s
  else
    let r := faultRecord31 addr 0 0 0 20 level 0 0 0 0 0 s.ccy.toNat
    let jids := ((s.groups.filter (fun g => level == 3 && g.table.any (fun e => decide (e.1 = addr)))).map (·.job)).eraseDups
    let s := (s.postFault 0 r).1
    let s := jids.foldl (fun s j => (s.postFault j r).1) s
    if level = 3 then s.losePackage addr else s

def execFabricTimeout (level addr : Nat) (s : State) : Host.Outcome State Fault Refusal := .next (s.fabricFail level addr)

/-! The registers of the functions (R357). -/

/-- A function that exists (R356, R371). -/
def State.fnLives (s : State) (fn : Nat) : Bool := !s.hostLost && !s.poweredDown && (fn == 0 || (s.job? fn).isSome)

/-- Bits [51:16] of a root. -/
def rootBits (v : Word) : Nat := v.toNat % 2 ^ 52 / 65536 * 65536

/-- Registers of the sluices (R366). -/
def State.writeSluice (s : State) (n off : Nat) (v : Word) : State :=
  match off with
  | 0x00 => s.writeRate n v
  | 0x28 => s.setSluice n { s.sluice n with replim := v.toNat % 2 ^ 32, crclim := v.toNat / 2 ^ 32 % 2 ^ 16 }
  | _ => s

/-- Window 0 of the physical function. -/
def State.writePf0 (s : State) (off : Nat) (v : Word) : State :=
  if 0x2000 ≤ off then (if off < 0x2600 then s.writeSluice ((off - 0x2000) / 0x100) (off % 0x100) v else s)
  else if 0x400 ≤ off then s
  else match s.polder? (off / 0x40), off % 0x40 with
    | some p, 0 => s.setPolder (off / 0x40) { p with borderNew := v.setWidth 32 &&& 0x80FFFFFF }
    | some p, 8 => (match memcfgValue v.toNat with
      | some m => s.setPolder (off / 0x40) { p with memNew := m }
      | none => s)
    | _, _ => s

/-- Window 1 of the physical function: the slots of the jobs. -/
def State.writePf1 (s : State) (off : Nat) (v : Word) : State :=
  let jid := off / 0x100
  match s.job? jid, off % 0x100 with
  | some j, 0x00 => s.setJob jid { j with s2new := rootBits v }
  | some j, 0x08 => s.setJob jid { j with jcbpa := v.toNat % 2 ^ 52 / 8192 * 8192 }
  | some j, 0x10 => s.setJob jid { j with dkeylo := v }
  | some _, 0x18 => s.keyHigh jid v
  | _, _ => s

/-- Sizes FQSIZE may hold (R358). -/
def fqSizeOk (n : Nat) : Bool := n == 0 || (decide (16 ≤ n) && decide (n ≤ 65536) && n == 2 ^ n.log2)

/-- Window 2 of a function. -/
def State.writeWin2 (s : State) (fn off : Nat) (v : Word) : State :=
  let x := s.fn fn
  match off with
  | 0x1000 => if x.fqtail ≠ x.fqhead then s else s.setFn fn { x with fqbase := v.toNat % 2 ^ 52 / 64 * 64 }
  | 0x1008 =>
    let n := v.toNat % 2 ^ 17
    if x.fqtail ≠ x.fqhead || !fqSizeOk n then s else (s.setFn fn { x with fqsize := n }).drainFq (x.held.length + 1) fn
  | 0x1010 => s.fqHead fn v.toNat
  | 0x1020 => if v.getLsbD 32 then s.replyDeliver fn (v.toNat % 2 ^ 32) else s.replyRetry fn (v.toNat % 2 ^ 32)
  | 0x2000 => if fn = 0 then s else (match s.job? fn with
    | some j => s.setJob fn { j with s1new := rootBits v }
    | none => s)
  | 0x3000 | 0x3008 | 0x3010 => s.writeInv fn off v
  | 0x4000 => s.mbRequest fn v.toNat
  | _ => s

/-- A write of eight bytes in a port's first 64 bytes is no command (R39). -/
def State.strayPort (s : State) (jid off : Nat) : State := if off % 0x1000 < 64 then s.badWrite jid (off / 0x1000 % 16) else s

def State.writeReg (s : State) (fn win off : Nat) (v : Word) : State :=
  if !s.fnLives fn || 0x10000 ≤ off then s
  else match win with
    | 0 => if fn = 0 then s.writePf0 off v else s.strayPort fn off
    | 1 => if fn = 0 then s.writePf1 off v else s.strayPort fn off
    | 2 => s.writeWin2 fn off v
    | _ => s

def execRegisterWrite (fn win off : Nat) (v : Word) (s : State) : Host.Outcome State Fault Refusal := .next (s.writeReg fn win off v)

/-- A register as the host reads it; what is not listed reads zero (R357). -/
def State.readReg (s : State) (fn win off : Nat) : Nat :=
  let x := s.fn fn
  let counter (m : AMap Nat) (o n : Nat) : Nat := if o % 8 = 0 && o / 8 < n then AMap.getD m (o / 8) 0 else 0
  let sluice (y : Sluice) (o : Nat) : Nat := match o with
    | 0x00 => y.rate
    | 0x08 => y.lanes
    | 0x10 => y.replays
    | 0x18 => y.crcerr
    | 0x20 => y.retired
    | 0x28 => y.replim + 2 ^ 32 * y.crclim
    | _ => 0
  let errs (q o : Nat) : Nat := match s.polder? q with
    | some p => counter p.errs o 11
    | none => 0
  if !s.fnLives fn then 0
  else match win with
    | 0 =>
      if fn ≠ 0 then 0
      else if 0x2000 ≤ off then (if off < 0x2600 then sluice (s.sluice ((off - 0x2000) / 0x100)) (off % 0x100) else 0)
      else if 0x1000 ≤ off then 0
      else if 0x800 ≤ off then errs ((off - 0x800) / 0x80) (off % 0x80)
      else (match s.polder? (off / 0x40), off % 0x40 with
        | some p, 0 => p.borderNew.toNat
        | some p, 8 => p.memNew.toNat
        | _, _ => 0)
    | 1 =>
      if fn ≠ 0 then 0
      else (match s.job? (off / 0x100), off % 0x100 with
        | some j, 0 => j.s2new
        | some j, 8 => j.jcbpa
        | _, _ => 0)
    | 2 =>
      (match off with
      | 0x1000 => x.fqbase
      | 0x1008 => x.fqsize
      | 0x1010 => x.fqhead
      | 0x1018 => x.fqtail
      | 0x1028 => x.held.length
      | 0x2000 => ((s.job? fn).map (·.s1new)).getD 0
      | 0x3000 => x.invaddr.toNat
      | 0x3008 => x.invlen.toNat
      | 0x3018 => x.invdone.toNat
      | 0x4000 => x.mbreq.getD 0
      | 0x4008 => (if x.mbreq.isSome then 1 else 0) + 2 ^ 32 * x.mbdone.toNat
      | _ =>
        if 0x1000 ≤ off then 0
        else if fn = 0 then errs (off / 0x80) (off % 0x80)
        else counter (((s.job? fn).map (·.errs)).getD []) off 10)
    | _ => 0

/-! Host accesses. -/

/-- A host write to job memory: a die-hashed page is written from the host die, the fifth of its clock (R252, R293); whole or not
at all. DESIGN CHOICE (log 129): so the hypervisor writes its area of a control block after creation, no function being named for
that, and R36 binds the job's stores alone: every offset of the block takes what a host write brings. -/
def State.hostWrite (s : State) (jid va : Nat) (bs : List Byte) : State :=
  match (pieces va bs.length).mapM (fun p => match s.devKey jid (s.jobSite jid) p.1 accStore .write with
    | .ok k => some (k, p.1 - va, p.2)
    | .error _ => none) with
  | none => s
  | some ps =>
    let s := (pieces va bs.length).foldl (fun (s : State) p => s.walked jid (s.jobSite jid) p.1) s
    let s := ps.foldl (fun (s : State) p => s.writeHome true (s.jobSites jid) p.1 ((bs.drop p.2.1).take p.2.2)) s
    if Config.jcbBase ≤ va then s.tookQ jid (va - Config.jcbBase) bs.length else s

/-- A command at a port: queued, or QUEUE_FULL when 64 or more wait; any other write than 64 bytes at the port's address counts in
BADWR (R39, R377). DEDUCED (log 147): a command discarded with QUEUE_FULL does not count there, since R39 counts the writes that are no
command and gives this one a status. -/
def State.portWrite (s : State) (jid : Nat) (coll : Bool) (sn off : Nat) (bs : List Byte) : State :=
  match s.job? jid with
  | none => s
  | some j =>
    if 16 ≤ sn || 64 ≤ off then s
    else if off ≠ 0 || bs.length ≠ 64 then s.badWrite jid sn
    else
      let x := j.stream sn
      if coll then
        (if 64 ≤ x.cqueue.length then (if statOk (cmdStat bs) then s.writeStatus jid sn (cmdStat bs) 0x10E noGang 0 (cmdTag bs) else s.badWrite jid sn)
        else s.setJob jid (j.setStream sn { x with cqueue := x.cqueue ++ [Cmd.mk bs false] }))
      else if 64 ≤ x.queue.length + x.overflow.length then
        (if statOk (cmdStat bs) then s.writeStatus jid sn (cmdStat bs) 0x10E noGang 0 (cmdTag bs) else s.badWrite jid sn)
      else s.setJob jid (j.setStream sn { x with queue := x.queue ++ [Cmd.mk bs false] })

/-- What the host does. DEDUCED (log 82): its read of a die-hashed page is served by the copy of the polder's lowest die. -/
def execHostAccess (acc : HostAcc) (s : State) : Host.Outcome State Fault Refusal :=
  match acc with
  | .writeHost a bs => .next { s with host := s.host.writeBytes a bs }
  | .mapHost holes => .next { s with hostHoles := holes }
  | .readReg fn win off => .next { s with hostReads := leBytes 8 (s.readReg fn win off) :: s.hostReads }
  | .readJob j va n =>
    if !s.fnLives j then .next s
    else (match s.devRead j (s.jobSite j) va n accLoad with
      | .ok (s, bs) => .next { s with hostReads := bs :: s.hostReads }
      | .error _ => .next { s with hostReads := [] :: s.hostReads })
  | .writeJob j va bs => if s.fnLives j then .next (s.hostWrite j va bs) else .next s
  | .port j coll sn off bs => if s.fnLives j then .next (s.portWrite j coll sn off bs) else .next s

end Sys2Proof.Machine
end

