-- ==== Sys2Proof/Machine/Dispatch.lean ====
section
/-! DEFINITION. Dispatch.lean: the meaning of every instruction and event, one arm per constructor. -/
namespace Sys2Proof.Machine
open Sys2Proof

def exec (i : Instr) (s : State) : Host.Outcome State Fault Refusal :=
  match i with
  | .nop p => Sys2Proof.Machine.execNop p s
  | .ifence p => Sys2Proof.Machine.execIfence p s
  | .br p slot disp => Sys2Proof.Machine.execBr p slot disp s
  | .call p d slot disp => Sys2Proof.Machine.execCall p d slot disp s
  | .loop p a slot disp => Sys2Proof.Machine.execLoop p a slot disp s
  | .jr p link a => Sys2Proof.Machine.execJr p link a s
  | .ret p a => Sys2Proof.Machine.execRet p a s
  | .trap p code => Sys2Proof.Machine.execTrap p code s
  | .eret p => Sys2Proof.Machine.execEret p s
  | .uret p => Sys2Proof.Machine.execUret p s
  | .done p => Sys2Proof.Machine.execDone p s
  | .yield p live => Sys2Proof.Machine.execYield p live s
  | .movc p d creg => Sys2Proof.Machine.execMovc p d creg s
  | .mtc p a creg => Sys2Proof.Machine.execMtc p a creg s
  | .wpsw p d a => Sys2Proof.Machine.execWpsw p d a s
  | .prel p n => Sys2Proof.Machine.execPrel p n s
  | .rdid p d sel => Sys2Proof.Machine.execRdid p d sel s
  | .rdccy p d => Sys2Proof.Machine.execRdccy p d s
  | .rdterr p d a mode => Sys2Proof.Machine.execRdterr p d a mode s
  | .iadd p ty sat d a b => Sys2Proof.Machine.execIadd p ty sat d a b s
  | .isub p ty sat d a b => Sys2Proof.Machine.execIsub p ty sat d a b s
  | .imul p ty sat d a b => Sys2Proof.Machine.execImul p ty sat d a b s
  | .imulh p ty d a b => Sys2Proof.Machine.execImulh p ty d a b s
  | .imulhn p ty d a b => Sys2Proof.Machine.execImulhn p ty d a b s
  | .idiv p ty sat d a b => Sys2Proof.Machine.execIdiv p ty sat d a b s
  | .idivn p ty d a b => Sys2Proof.Machine.execIdivn p ty d a b s
  | .irem p ty d a b => Sys2Proof.Machine.execIrem p ty d a b s
  | .iremn p ty d a b => Sys2Proof.Machine.execIremn p ty d a b s
  | .imin p ty d a b => Sys2Proof.Machine.execImin p ty d a b s
  | .imax p ty d a b => Sys2Proof.Machine.execImax p ty d a b s
  | .iminn p ty d a b => Sys2Proof.Machine.execIminn p ty d a b s
  | .imaxn p ty d a b => Sys2Proof.Machine.execImaxn p ty d a b s
  | .iabs p ty sat d a => Sys2Proof.Machine.execIabs p ty sat d a s
  | .ineg p ty sat d a => Sys2Proof.Machine.execIneg p ty sat d a s
  | .iand p d a b => Sys2Proof.Machine.execIand p d a b s
  | .ior p d a b => Sys2Proof.Machine.execIor p d a b s
  | .ixor p d a b => Sys2Proof.Machine.execIxor p d a b s
  | .iandn p d a b => Sys2Proof.Machine.execIandn p d a b s
  | .ishl p d a b => Sys2Proof.Machine.execIshl p d a b s
  | .ishr p d a b => Sys2Proof.Machine.execIshr p d a b s
  | .isar p d a b => Sys2Proof.Machine.execIsar p d a b s
  | .irot p d a b => Sys2Proof.Machine.execIrot p d a b s
  | .clz p d a => Sys2Proof.Machine.execClz p d a s
  | .ctz p d a => Sys2Proof.Machine.execCtz p d a s
  | .popc p d a => Sys2Proof.Machine.execPopc p d a s
  | .icmp p ty cond d a b => Sys2Proof.Machine.execIcmp p ty cond d a b s
  | .isel p d a b c => Sys2Proof.Machine.execIsel p d a b c s
  | .ext p d a pos len => Sys2Proof.Machine.execExt p d a pos len s
  | .extn p d a pos len => Sys2Proof.Machine.execExtn p d a pos len s
  | .ins p d a pos len => Sys2Proof.Machine.execIns p d a pos len s
  | .li p d imm => Sys2Proof.Machine.execLi p d imm s
  | .lea p pcrel sh d a b => Sys2Proof.Machine.execLea p pcrel sh d a b s
  | .ld p ty o d a b => Sys2Proof.Machine.execLd p ty o d a b s
  | .st p ty o a b c => Sys2Proof.Machine.execSt p ty o a b c s
  | .vld p ty o d a b => Sys2Proof.Machine.execVld p ty o d a b s
  | .vst p ty o a b c => Sys2Proof.Machine.execVst p ty o a b c s
  | .vlds p ty d a b => Sys2Proof.Machine.execVlds p ty d a b s
  | .vsts p ty a b c => Sys2Proof.Machine.execVsts p ty a b c s
  | .vldg p ty d a b => Sys2Proof.Machine.execVldg p ty d a b s
  | .vstx p ty a b c => Sys2Proof.Machine.execVstx p ty a b c s
  | .ldrc p ty count d a b => Sys2Proof.Machine.execLdrc p ty count d a b s
  | .ldc p ty d a b => Sys2Proof.Machine.execLdc p ty d a b s
  | .sbind p write d a b c => Sys2Proof.Machine.execSbind p write d a b c s
  | .sunbind p d => Sys2Proof.Machine.execSunbind p d s
  | .cmaint p op level a b => Sys2Proof.Machine.execCmaint p op level a b s
  | .icinv p a b => Sys2Proof.Machine.execIcinv p a b s
  | .fence p o => Sys2Proof.Machine.execFence p o s
  | .amo p op ty o a c => Sys2Proof.Machine.execAmo p op ty o a c s
  | .amof p op ty o d a b c => Sys2Proof.Machine.execAmof p op ty o d a b c s
  | .red p op ty m a src => Sys2Proof.Machine.execRed p op ty m a src s
  | .arrive p k => Sys2Proof.Machine.execArrive p k s
  | .wait p k => Sys2Proof.Machine.execWait p k s
  | .sstep p k => Sys2Proof.Machine.execSstep p k s
  | .barrierGenerationComplete job gang k => Sys2Proof.Machine.execBarrierGenerationComplete job gang k s
  | .tcommit p wait => Sys2Proof.Machine.execTcommit p wait s
  | .trd p d stream tail => Sys2Proof.Machine.execTrd p d stream tail s
  | .thead p d wait => Sys2Proof.Machine.execThead p d wait s
  | .fork p d a b join live stage => Sys2Proof.Machine.execFork p d a b join live stage s
  | .join p live => Sys2Proof.Machine.execJoin p live s
  | .spawn p d a b join live stage => Sys2Proof.Machine.execSpawn p d a b join live stage s
  | .suspend p a live => Sys2Proof.Machine.execSuspend p a live s
  | .suspendWake job addr => Sys2Proof.Machine.execSuspendWake job addr s
  | .launch p graph a b c stream => Sys2Proof.Machine.execLaunch p graph a b c stream s
  | .gdone p => Sys2Proof.Machine.execGdone p s
  | .vadd p ty m sat d a b => Sys2Proof.Machine.execVadd p ty m sat d a b s
  | .vsub p ty m sat d a b => Sys2Proof.Machine.execVsub p ty m sat d a b s
  | .vmul p ty m sat d a b => Sys2Proof.Machine.execVmul p ty m sat d a b s
  | .vmin p ty d a b => Sys2Proof.Machine.execVmin p ty d a b s
  | .vmax p ty d a b => Sys2Proof.Machine.execVmax p ty d a b s
  | .vabs p ty sat d a => Sys2Proof.Machine.execVabs p ty sat d a s
  | .vneg p ty sat d a => Sys2Proof.Machine.execVneg p ty sat d a s
  | .vfma p ty m sat d a b => Sys2Proof.Machine.execVfma p ty m sat d a b s
  | .vfms p ty m sat d a b => Sys2Proof.Machine.execVfms p ty m sat d a b s
  | .vfnma p ty m sat d a b => Sys2Proof.Machine.execVfnma p ty m sat d a b s
  | .vand p ty d a b => Sys2Proof.Machine.execVand p ty d a b s
  | .vor p ty d a b => Sys2Proof.Machine.execVor p ty d a b s
  | .vxor p ty d a b => Sys2Proof.Machine.execVxor p ty d a b s
  | .vshl p ty d a b => Sys2Proof.Machine.execVshl p ty d a b s
  | .vshr p ty d a b => Sys2Proof.Machine.execVshr p ty d a b s
  | .vsar p ty d a b => Sys2Proof.Machine.execVsar p ty d a b s
  | .vcmp p ty cond d a b => Sys2Proof.Machine.execVcmp p ty cond d a b s
  | .vsel p ty d a b c => Sys2Proof.Machine.execVsel p ty d a b c s
  | .vcvt p ty sty part m sat d a => Sys2Proof.Machine.execVcvt p ty sty part m sat d a s
  | .vquant p ty sty part m sat d a b => Sys2Proof.Machine.execVquant p ty sty part m sat d a b s
  | .vdq p ty sty part m sat d a b => Sys2Proof.Machine.execVdq p ty sty part m sat d a b s
  | .vredsum p ty m sat d a => Sys2Proof.Machine.execVredsum p ty m sat d a s
  | .vredmax p ty d a => Sys2Proof.Machine.execVredmax p ty d a s
  | .vredmin p ty d a => Sys2Proof.Machine.execVredmin p ty d a s
  | .vamax p ty d a => Sys2Proof.Machine.execVamax p ty d a s
  | .vdot p ty m sat d a b => Sys2Proof.Machine.execVdot p ty m sat d a b s
  | .vperm p ty d a b => Sys2Proof.Machine.execVperm p ty d a b s
  | .vbcast p ty d a => Sys2Proof.Machine.execVbcast p ty d a s
  | .vslide p ty k d a b => Sys2Proof.Machine.execVslide p ty k d a b s
  | .vzip p ty part d a b => Sys2Proof.Machine.execVzip p ty part d a b s
  | .vunzip p ty part d a b => Sys2Proof.Machine.execVunzip p ty part d a b s
  | .vins p ty d a b => Sys2Proof.Machine.execVins p ty d a b s
  | .vext p ty d a b => Sys2Proof.Machine.execVext p ty d a b s
  | .vrecip p ty m sat d a => Sys2Proof.Machine.execVrecip p ty m sat d a s
  | .vrsqrt p ty m sat d a => Sys2Proof.Machine.execVrsqrt p ty m sat d a s
  | .vexp2 p ty m sat d a => Sys2Proof.Machine.execVexp2 p ty m sat d a s
  | .vlog2 p ty m sat d a => Sys2Proof.Machine.execVlog2 p ty m sat d a s
  | .fand p d a b => Sys2Proof.Machine.execFand p d a b s
  | .for_ p d a b => Sys2Proof.Machine.execFor p d a b s
  | .fxor p d a b => Sys2Proof.Machine.execFxor p d a b s
  | .fnot p d a => Sys2Proof.Machine.execFnot p d a s
  | .fpop p ty d a => Sys2Proof.Machine.execFpop p ty d a s
  | .ffirst p ty d a => Sys2Proof.Machine.execFfirst p ty d a s
  | .ydraw p d a => Sys2Proof.Machine.execYdraw p d a s
  | .yset p d a => Sys2Proof.Machine.execYset p d a s
  | .ycopy p d a => Sys2Proof.Machine.execYcopy p d a s
  | .yrd p asF32 m d a => Sys2Proof.Machine.execYrd p asF32 m d a s
  | .ycmp p asF32 d a b => Sys2Proof.Machine.execYcmp p asF32 d a b s
  | .ycmpq p d a b c => Sys2Proof.Machine.execYcmpq p d a b c s
  | .ycmpy p d a b => Sys2Proof.Machine.execYcmpy p d a b s
  | .ycat p d a b c => Sys2Proof.Machine.execYcat p d a b c s
  | .yext p d k => Sys2Proof.Machine.execYext p d k s
  | .ydig p d a => Sys2Proof.Machine.execYdig p d a s
  | .bgreq p d a tag => Sys2Proof.Machine.execBgreq p d a tag s
  | .bgtry p d a tag => Sys2Proof.Machine.execBgtry p d a tag s
  | .bargeAccept tile => Sys2Proof.Machine.execBargeAccept tile s
  | .bargeUnitWrite req => Sys2Proof.Machine.execBargeUnitWrite req s
  | .bgsleep p noprom tag => Sys2Proof.Machine.execBgsleep p noprom tag s
  | .promiseMissed tile => Sys2Proof.Machine.execPromiseMissed tile s
  | .bgwm p d recv tag => Sys2Proof.Machine.execBgwm p d recv tag s
  | .mcfg p ty d rows cols => Sys2Proof.Machine.execMcfg p ty d rows cols s
  | .tld p d a b => Sys2Proof.Machine.execTld p d a b s
  | .tldt p d a b => Sys2Proof.Machine.execTldt p d a b s
  | .tst p d a b => Sys2Proof.Machine.execTst p d a b s
  | .tzero p d => Sys2Proof.Machine.execTzero p d s
  | .mmac p m sat row0 col0 d a b => Sys2Proof.Machine.execMmac p m sat row0 col0 d a b s
  | .mmacs p m sat row0 col0 d a b => Sys2Proof.Machine.execMmacs p m sat row0 col0 d a b s
  | .mscale p m sat row0 col0 kb d a b c => Sys2Proof.Machine.execMscale p m sat row0 col0 kb d a b c s
  | .mrd p d a row part => Sys2Proof.Machine.execMrd p d a row part s
  | .mwr p d a row part => Sys2Proof.Machine.execMwr p d a row part s
  | .mclr p d => Sys2Proof.Machine.execMclr p d s
  | .matrixOpComplete tile => Sys2Proof.Machine.execMatrixOpComplete tile s
  | .mcmd p a b => Sys2Proof.Machine.execMcmd p a b s
  | .mcmdArrival tile => Sys2Proof.Machine.execMcmdArrival tile s
  | .mcap p d a rights => Sys2Proof.Machine.execMcap p d a rights s
  | .mswap p a b c len => Sys2Proof.Machine.execMswap p a b c len s
  | .mswapMatch tile partner => Sys2Proof.Machine.execMswapMatch tile partner s
  | .mwait p mode => Sys2Proof.Machine.execMwait p mode s
  | .portLaunch job stream => Sys2Proof.Machine.execPortLaunch job stream s
  | .portGraph job stream => Sys2Proof.Machine.execPortGraph job stream s
  | .graphInstantiate job stream => Sys2Proof.Machine.execGraphInstantiate job stream s
  | .portOpen job stream => Sys2Proof.Machine.execPortOpen job stream s
  | .portClose job stream => Sys2Proof.Machine.execPortClose job stream s
  | .closeComplete job stream => Sys2Proof.Machine.execCloseComplete job stream s
  | .collectiveAllreduce job stream => Sys2Proof.Machine.execCollectiveAllreduce job stream s
  | .collectiveReduce job stream => Sys2Proof.Machine.execCollectiveReduce job stream s
  | .collectiveBroadcast job stream => Sys2Proof.Machine.execCollectiveBroadcast job stream s
  | .collectiveStart job stream => Sys2Proof.Machine.execCollectiveStart job stream s
  | .collectiveCommit job stream => Sys2Proof.Machine.execCollectiveCommit job stream s
  | .gangReady job gang => Sys2Proof.Machine.execGangReady job gang s
  | .dispatchSelection polder => Sys2Proof.Machine.execDispatchSelection polder s
  | .concurrentPlacement job gang => Sys2Proof.Machine.execConcurrentPlacement job gang s
  | .quantumClose job gang => Sys2Proof.Machine.execQuantumClose job gang s
  | .parallelQuantumExpiry tile => Sys2Proof.Machine.execParallelQuantumExpiry tile s
  | .restrictionTimeout tile => Sys2Proof.Machine.execRestrictionTimeout tile s
  | .takeRecord tile => Sys2Proof.Machine.execTakeRecord tile s
  | .preempt tile => Sys2Proof.Machine.execPreempt tile s
  | .latchStallTimeout tile => Sys2Proof.Machine.execLatchStallTimeout tile s
  | .preemptCopyOut tile => Sys2Proof.Machine.execPreemptCopyOut tile s
  | .presUpdate => Sys2Proof.Machine.execPresUpdate s
  | .borderPhaseStart => Sys2Proof.Machine.execBorderPhaseStart s
  | .wipeStart tile => Sys2Proof.Machine.execWipeStart tile s
  | .cessionAbandon tile => Sys2Proof.Machine.execCessionAbandon tile s
  | .wipeComplete tile => Sys2Proof.Machine.execWipeComplete tile s
  | .tileDead tile => Sys2Proof.Machine.execTileDead tile s
  | .deadTilePhaseEnd tile => Sys2Proof.Machine.execDeadTilePhaseEnd tile s
  | .splitRelease job => Sys2Proof.Machine.execSplitRelease job s
  | .uncorrectableError site => Sys2Proof.Machine.execUncorrectableError site s
  | .gangDrain job gang => Sys2Proof.Machine.execGangDrain job gang s
  | .dieHashedWriteArrival die => Sys2Proof.Machine.execDieHashedWriteArrival die s
  | .meteringFlush job => Sys2Proof.Machine.execMeteringFlush job s
  | .infieldTest tile passes => Sys2Proof.Machine.execInfieldTest tile passes s
  | .thermalLimit degrees => Sys2Proof.Machine.execThermalLimit degrees s
  | .packageReset disc => Sys2Proof.Machine.execPackageReset disc s
  | .fqreplyRetry fn num => Sys2Proof.Machine.execFqreplyRetry fn num s
  | .fqreplyDeliver fn num => Sys2Proof.Machine.execFqreplyDeliver fn num s
  | .fqheadWrite fn v => Sys2Proof.Machine.execFqheadWrite fn v s
  | .invcmd fn v => Sys2Proof.Machine.execInvcmd fn v s
  | .invalidationComplete fn => Sys2Proof.Machine.execInvalidationComplete fn s
  | .dkeyhiWrite job v => Sys2Proof.Machine.execDkeyhiWrite job v s
  | .rselWrite sluice v => Sys2Proof.Machine.execRselWrite sluice v s
  | .sluiceRetrainComplete sluice failing => Sys2Proof.Machine.execSluiceRetrainComplete sluice failing s
  | .sluiceWindowEnd sluice => Sys2Proof.Machine.execSluiceWindowEnd sluice s
  | .flitCrcFail x => Sys2Proof.Machine.execFlitCrcFail x s
  | .fabricHeartbeat => Sys2Proof.Machine.execFabricHeartbeat s
  | .fabricTimeout level addr => Sys2Proof.Machine.execFabricTimeout level addr s
  | .resync fn => Sys2Proof.Machine.execResync fn s
  | .polderSet fn => Sys2Proof.Machine.execPolderSet fn s
  | .polderReset fn => Sys2Proof.Machine.execPolderReset fn s
  | .powerLimit fn => Sys2Proof.Machine.execPowerLimit fn s
  | .jobCreate fn => Sys2Proof.Machine.execJobCreate fn s
  | .jobDestroy fn => Sys2Proof.Machine.execJobDestroy fn s
  | .groupSet fn => Sys2Proof.Machine.execGroupSet fn s
  | .codeDigest fn => Sys2Proof.Machine.execCodeDigest fn s
  | .formation fn => Sys2Proof.Machine.execFormation fn s
  | .report fn => Sys2Proof.Machine.execReport fn s
  | .measure fn => Sys2Proof.Machine.execMeasure fn s
  | .measurePassStart job gang => Sys2Proof.Machine.execMeasurePassStart job gang s
  | .spdm fn => Sys2Proof.Machine.execSpdm fn s
  | .extend fn => Sys2Proof.Machine.execExtend fn s
  | .lifecycleQuery fn => Sys2Proof.Machine.execLifecycleQuery fn s
  | .lifecycleTransition fn => Sys2Proof.Machine.execLifecycleTransition fn s
  | .registerWrite fn win off v => Sys2Proof.Machine.execRegisterWrite fn win off v s
  | .hostAccess acc => Sys2Proof.Machine.execHostAccess acc s
  | .collectiveMessageArrival group post => Sys2Proof.Machine.execCollectiveMessageArrival group post s
  | .failedLockkeeper quadrant => Sys2Proof.Machine.execFailedLockkeeper quadrant s

end Sys2Proof.Machine
end

