-- ==== Sys2Proof/Machine/Due.lean ====
section
/-! DEFINITION. Due.lean: what the machine does of itself (log 1): the device event that is due, the tile whose turn is next,
the passing of a cycle, and the fetch and execution of one instruction (R87, R143). -/
namespace Sys2Proof.Machine

/-! What is due. -/

/-- An event changes the machine now. -/
def State.moves (s : State) (i : Instr) : Bool :=
  match exec i s with
  | .next t => decide (t ≠ s)
  | _ => false

/-- What may be due on a tile: work handed to it, then its tasks. -/
def unitEvents (n : Nat) (t : Tile) : List Instr :=
  (if t.fifo.isEmpty then [] else [.bargeAccept n]) ++
  ((if t.msg.isSome then [.mcmdArrival n] else []) ++
  ((if t.mq.isEmpty then [] else [.matrixOpComplete n]) ++
  ((match t.swap with
    | some x => [.mswapMatch n x.partner]
    | none => []) ++
  (if t.run.any (fun r => r.stall.any (fun x => match x.kind with
    | .sleep _ => true
    | _ => false)) then [.promiseMissed n] else []))))

/-- What may be due of the task of a tile: its test, its pre-emption, its copy-out, another record. -/
def runEvents (work : Bool) (n : Nat) (t : Tile) : List Instr :=
  (match t.testing with
    | some b => [.infieldTest n b]
    | none => []) ++
  ((if t.run.any (fun r => decide (65536 ≤ r.contended)) then [.parallelQuantumExpiry n] else []) ++
  ((if t.run.isNone && !t.unrestricted && decide (4096 ≤ t.idle) then [.restrictionTimeout n] else []) ++
  ((if t.run.any (fun r => !r.reqs.isEmpty) then [.preempt n, .latchStallTimeout n] else []) ++
  ((if t.saved.isSome || t.root.isSome then [.preempt n, .preemptCopyOut n] else []) ++
  (if work && (match t.owner with
    | .job _ => true
    | _ => false) then [.takeRecord n] else [])))))

/-- What may be due of a tile's owner changing. -/
def moveEvents (n : Nat) (t : Tile) : List Instr :=
  (if t.dying then [.deadTilePhaseEnd n] else []) ++
  (if t.cess.isSome then [.wipeStart n, .cessionAbandon n, .wipeComplete n] else [])

/-- What may be due at a stream's ports and of the collective that is its head. -/
def streamEvents (j n : Nat) (x : Stream) : List Instr :=
  (match x.queue with
    | [] => []
    | c :: _ => match cmdCode c.bytes with
      | 1 => [.portLaunch j n]
      | 2 => [.portGraph j n, .graphInstantiate j n]
      | 3 => [.portOpen j n]
      | _ => [.portClose j n, .closeComplete j n]) ++
  ((if x.cqueue.isEmpty then [] else [.collectiveAllreduce j n, .collectiveReduce j n, .collectiveBroadcast j n]))

def gangEvents (j k : Nat) (g : Gang) : List Instr :=
  if !g.live then []
  else
    (if g.phase == .waiting then [.gangReady j k] else []) ++
    ((if g.phase == .retired || !g.batches.isEmpty || g.nodeOwed then [.gangDrain j k] else []) ++
    ((if g.desc.cls = 2 then .concurrentPlacement j k :: (List.finRange 8).map (fun b => .barrierGenerationComplete j k b) else []) ++
    ((if g.quantumOver then [.quantumClose j k] else []) ++ (if g.meas.isSome then [.measurePassStart j k] else []))))

def jobEvents (j : Nat) (x : Job) : List Instr :=
  x.susp.map (fun w => .suspendWake j w.addr) ++
  (x.streams.flatMap (fun (e : Nat × Stream) => streamEvents j e.1 e.2) ++
  ((if x.colls.isEmpty then [] else
    x.streams.flatMap (fun (e : Nat × Stream) => [.collectiveStart j e.1, .collectiveCommit j e.1])) ++
  x.gangs.flatMap (fun (e : Nat × Gang) => gangEvents j e.1 e.2)))

/-- The command a mailbox holds, by its OP; a reserved one is answered with RESYNC's. -/
def mailEvent (fn : Nat) (b : List Byte) : Instr :=
  match mbOp b with
  | 0x02 => .polderSet fn
  | 0x03 => .polderReset fn
  | 0x04 => .powerLimit fn
  | 0x05 => .jobCreate fn
  | 0x06 => .jobDestroy fn
  | 0x07 => .groupSet fn
  | 0x08 => .codeDigest fn
  | 0x09 => .formation fn
  | 0x0A => .report fn
  | 0x0B => .measure fn
  | 0x0C => .spdm fn
  | 0x0D => .extend fn
  | 0x0E => if isQuery b then .lifecycleQuery fn else .lifecycleTransition fn
  | _ => .resync fn

def State.fnEvents (s : State) (fn : Nat) (x : Fn) : List Instr :=
  (if x.invs.isEmpty then [] else [.invalidationComplete fn]) ++
  (match s.mbBlock fn with
    | some b => [mailEvent fn b]
    | none => [])

/-- Events of the clock, dead tiles and wipes before the border phase, and what the machine's own parts owe. -/
def State.timeEvents (s : State) : List Instr :=
  (if s.timers.pres < s.ccy.toNat / 1024 then [.presUpdate] else []) ++ (s.tiles.flatMap (fun (e : Nat × Tile) => moveEvents e.1 e.2) ++
  ((s.jobs.filter (fun (e : Nat × Job) => !e.2.splits.isEmpty)).map (fun (e : Nat × Job) => .splitRelease e.1) ++
  ((if s.timers.phase < s.ccy.toNat / 16384 then [.borderPhaseStart] else []) ++
  ((if s.timers.beat < s.ccy.toNat / beatCycles then [.fabricHeartbeat] else []) ++
  ((s.jobs.filter (fun (e : Nat × Job) => decide (e.2.flushed + 65536 ≤ s.ccy.toNat))).map (fun (e : Nat × Job) => .meteringFlush e.1) ++
  ((s.sluices.filter (fun (e : Nat × Sluice) => e.2.train)).map (fun (e : Nat × Sluice) => .sluiceRetrainComplete e.1 []) ++
  ((s.sluices.filter (fun (e : Nat × Sluice) => decide (e.2.win < s.ccy.toNat / 2 ^ 20))).map (fun (e : Nat × Sluice) =>
    .sluiceWindowEnd e.1) ++
  (if s.dhq.isEmpty then [] else (List.range 4).map (fun d => .dieHashedWriteArrival d)))))))))

/-- Some record waits in a queue. -/
def State.hasWork (s : State) : Bool :=
  s.jobs.any (fun (e : Nat × Job) => !e.2.ready.isEmpty || !e.2.pending.isEmpty) || s.tiles.any (fun (e : Nat × Tile) => !e.2.deque.isEmpty)

/-- Tests that are due: every live tile is tested within 2^37 cycles of its last test (R340). Whether it passes is a free value
(log 108). -/
def State.testEvents (s : State) : List Instr :=
  if s.ccy.toNat < 2 ^ 37 then []
  else ((List.range Config.nTiles).filter (fun n =>
    let t := s.tile n
    !t.dying && t.owner != Owner.dead && t.testing.isNone && decide (t.tested + 2 ^ 37 ≤ s.ccy.toNat))).map (fun n =>
      .infieldTest n (Config.testPasses (s.ccy.toNat * Config.nTiles + n)))

/-- Every event that may be due, in the order they are tried. -/
def State.events (s : State) : List Instr :=
  s.timeEvents ++ s.testEvents ++
  (s.fns.flatMap (fun (e : Nat × Fn) => s.fnEvents e.1 e.2) ++
  (s.tiles.flatMap (fun (e : Nat × Tile) => unitEvents e.1 e.2) ++
  (s.barges.map (fun (b : Barge) => .bargeUnitWrite b.id) ++
  (s.jobs.flatMap (fun (e : Nat × Job) => jobEvents e.1 e.2) ++
  ((if s.jobs.any (fun (e : Nat × Job) => e.2.gangs.any (fun (g : Nat × Gang) => g.2.readyAt.isSome && !g.2.dispatched && g.2.live)) then
    s.polders.map (fun (e : Nat × Polder) => .dispatchSelection e.1) else []) ++
  s.tiles.flatMap (fun (e : Nat × Tile) => runEvents s.hasWork e.1 e.2))))))

/-- What still happens once the compute dies are powered down (R5): package reset, and what the host does to its own memory. -/
def wakes : Instr → Bool
  | .packageReset _ | .hostAccess _ => true
  | _ => false

/-- The next event of the device that its rule makes happen now: the first that changes the machine; none once the dies are
powered down (R5). -/
def State.dueEvent (s : State) : Option Instr := if s.poweredDown then none else s.events.find? s.moves

/-! A cycle. -/

/-- A task held by what does not end by itself, in a serialised re-execution (R350). -/
def State.reexecBlocked (s : State) (g : Gang) (r : Run) : Bool :=
  match r.stall with
  | some x => (match x.kind with
    | .barrier k => (g.bars.find? (fun b => decide (b.root = r.rcd.rootIndex) && decide (b.k = k))).any (fun b => !g.genDone b)
    | .staging => !((s.job? r.job).any (fun j => g.head j))
    | .sleep tag => (s.tagged r tag).any (fun b => b.failed.isNone && (b.frozen.isNone || b.observed))
    | _ => false)
  | none => false

/-- A task of a job's gang that waits at its record address: at join, suspend or for a reply. -/
def State.asleep (s : State) (jid addr : Nat) : Bool := (s.job? jid).any (fun j => j.susp.any (fun x => decide (x.addr = addr)))

/-- A task may be the one that issues: it lives, its part of the quantum is not over, nothing blocks it (R53, R350). -/
def State.reexecReady (s : State) (jid : Nat) (g : Gang) (x : TaskInfo) : Bool :=
  x.owes.isNone && (!x.ended || x.blocked) && !s.asleep jid x.addr &&
    !(s.tiles.any (fun (e : Nat × Tile) => e.2.run.any (fun r => decide (r.job = jid) && decide (r.taskAddr = x.addr) && s.reexecBlocked g r)))

/-- The issuing task of a re-executing gang: the one that is, until it ends or blocks, else the ready one of least lineage. -/
def State.pickIssuer (s : State) (jid : Nat) (g : Gang) : Gang :=
  if !g.reexec || !g.live then g
  else
    let ok := g.inOrder.filter (s.reexecReady jid g)
    match ok.find? (fun x => some x.addr == g.issuer) with
    | some _ => g
    | none => { g with issuer := (ok.head?).map (·.addr) }

/-- Another task of what a record belongs to is ready: it waits in a queue of the job, on the pending list too (R17, R26). -/
def State.rivals (s : State) (jid : Nat) (r : Record) : Bool :=
  let mine (x : Record) : Bool := x.gang == r.gang && x.handler == r.handler
  (s.job? jid).any (fun j => j.ready.any mine || j.unwritten.any (fun u => mine u.rcd) || j.pending.any (fun p =>
      if r.handler then (j.upcallOf p.addr).isSome else j.gangAt p.addr == r.gang.toNat)) ||
    s.tiles.any (fun (e : Nat × Tile) => ownedBy e.2.owner jid && e.2.deque.any mine)

/-- No tile of a territory is idle. -/
def State.noIdle (s : State) (jid : Nat) : Bool := (s.tilesOf jid).all (fun n => (s.tile n).run.isSome)

/-- The promise of a task is that of PARALLEL (R26, R27, R74). -/
def State.parallel (s : State) (r : Run) : Bool := match s.runGang r with
  | some g => decide (g.desc.cls = 1) || decide (r.rcd.rootw < r.rcd.depth)
  | none => r.border

/-- What one cycle counts on a tile: idle cycles while restricted (R25), contended cycles of a PARALLEL task (R26). -/
def State.tickTile (s : State) (t : Tile) : Tile :=
  match t.run, t.owner with
  | none, .job _ => if t.unrestricted then t else { t with idle := t.idle + 1 }
  | none, _ => t
  | some r, _ =>
    if s.parallel r && s.noIdle r.job && s.rivals r.job r.rcd then { t with run := some { r with contended := r.contended + 1 } } else t

/-- One cycle passes; records of the pending lists for which there is room move on (R17). -/
def State.pass (s : State) : State :=
  let s := s.jobs.foldl (fun s (e : Nat × Job) => s.settleReady e.1) s
  { s with
    ccy := s.ccy + 1
    tiles := s.tiles.map (fun (e : Nat × Tile) => (e.1, s.tickTile e.2))
    jobs := s.jobs.map (fun (e : Nat × Job) => (e.1, { e.2 with
      gangs := e.2.gangs.map (fun (g : Nat × Gang) => (g.1, s.pickIssuer e.1 g.2)) })) }

/-- What a tile's turn comes to: an instruction to carry out, or the state after a trap, a suspension or nothing. -/
inductive Fetched where
  | instr (s : State) (i : Instr)
  | over (s : State)

/-- Word for a predicate that always holds. -/
def alwaysPred : Pred := ⟨false, 0⟩

/-- The instruction belongs to the V pipe (R100). -/
def onVPipe (i : Instr) : Bool := decide (0x40 ≤ i.toRaw.maj.toNat ∧ i.toRaw.maj.toNat ≤ 0x49) || decide (0x60 ≤ i.toRaw.maj.toNat ∧ i.toRaw.maj.toNat ≤ 0x63)
  || decide (0x70 ≤ i.toRaw.maj.toNat ∧ i.toRaw.maj.toNat ≤ 0x78)

/-- What the issue of an instruction counts: a V-pipe issue, once while the instruction stalls (R353). -/
def State.issued (s : State) (n : Nat) (i : Instr) : State :=
  if onVPipe i && !(s.tile n).run.any (fun r => r.stall.isSome) then s.setTile n ((s.tile n).event 4) else s

/-- The mcmd or mswap that a tile's task has issued and that has not ended (R235, R237). -/
def Tile.underWay (t : Tile) (r : Run) : Option Instr :=
  if t.msg.isSome || t.swap.isSome || r.verdict.isSome || r.swapped.isSome then r.begun else none

/-- The instruction that a tile carries on without fetching it again: an mcmd or mswap under way, or, under DSM, an amof that was served at
the close of the quantum (R54). -/
def State.carried (s : State) (n : Nat) (r : Run) : Option Instr :=
  ((s.tile n).underWay r).orElse (fun _ => ((s.runGang r).bind (·.task? r.taskAddr)).bind (fun x => if x.got.isSome then x.amof else none))

/-- The instruction at the PC of the task a tile runs, under the checks of R87 in their order; a pending fault comes first
(R259). A tile in the restore routine ends it with the routine's eret (R328). An mcmd, mswap or amof under way is not fetched again
(R54, R235, R237). -/
def State.fetchTurn (s : State) (n : Nat) : Fetched :=
  match (s.tile n).run with
  | none => .over s
  | some r =>
    match r.firm, r.pend, s.carried n r with
    | some .restore, _, _ => .instr s (.eret alwaysPred)
    | _, some p, _ => .over (s.takeTrap n r p.cause p.tval)
    | _, none, some i => .instr s i
    | _, none, none =>
      match s.fetchCheck n r r.pc r.entry with
      | .error (.trap s c) => .over (s.takeTrap n r c r.pc)
      | .error (.xlate f) => .over (s.faultTask n r f)
      | .error (.poison s) => .over (s.taskError r.job r.rcd n)
      | .ok (s, w, lw) =>
        let s := s.entered n
        if !lineClean lw then .over (s.takeTrap n r 0x01 r.pc)
        else match decode w with
          | some i => .instr (s.issued n i) i
          | none => .over (s.takeTrap n r 0x01 r.pc)

/-- No pre-emption holds a task at this boundary: there is none, LATCH keeps it off, or the instruction has been carried out but not
retired: an accepted mcmd, a matched mswap (R163, R235, R237, R324, R327). -/
def State.atEase (s : State) (t : Tile) (r : Run) : Bool :=
  r.sup || r.reqs.isEmpty || !s.latchAllows t r || r.verdict.isSome || r.swapped.isSome

/-- A running task that may issue: no pre-emption holds it, its frame waits for no reply (R408), its gang has its tiles (R72), it has
not ended its part of a quantum, or it waits at a barrier (R53), and in a serialised re-execution it is the one that issues
(R350). The save routine goes on by PREEMPT (R325), the restore routine by its eret (R328). -/
def State.mayIssue (s : State) (t : Tile) : Bool :=
  match t.run with
  | none => false
  | some r =>
    !t.dying && (match r.firm with
      | some .save => false
      | some .restore => true
      | none =>
        s.atEase t r && !s.holds r)

/-- A tile's turn: one cycle, one instruction of a task that may issue. -/
def State.turn (s : State) (n : Nat) : Host.Outcome State Fault Refusal :=
  let s := { s with cur := n }.pass
  if !s.mayIssue (s.tile n) then .next s
  else match s.fetchTurn n with
    | .instr s i => exec i s
    | .over s => .next s

/-- The next tile after the current one that may issue, in rotation. -/
def State.nextTile (s : State) : Option Nat :=
  let ns := if s.poweredDown then [] else sortBy (fun a b => decide (a < b)) ((s.tiles.filter (fun (e : Nat × Tile) => s.mayIssue e.2)).map (·.1))
  match ns.find? (fun n => decide (s.cur < n)) with
  | some n => some n
  | none => ns.head?

/-! Placing one instruction to be run next (log 24). -/

/-- A fetch line of one slot, the other slots zero, TMASK bit 0, with its parity bits (R82 to R85). -/
def oneSlotLine (w : Nat) : BitVec 512 :=
  let lw := 1 + (if parity w 96 then 2 ^ 16 else 0)
  let lw := lw + (if parity lw 32 then 2 ^ 21 else 0)
  BitVec.ofNat 512 (w + lw * 2 ^ 480)

/-- A launch descriptor of a WEAK gang of one task. -/
def plainDesc : Desc where
  entry := 0x10000
  ntask := 1
  cls := 0
  stream := 0
  prio := 0
  shape := 0
  shw := 0
  shh := 0
  nstage := 1
  nfoot := 1
  footptr := 0
  dsm := false
  digest := 0
  qlog2 := 12
  bars := 0
  snapb := 0
  arg0 := 0
  arg1 := 0
  frameb := 0x400000
  afttk := 0
  afts := 0
  aftv := false

end Sys2Proof.Machine
end

