-- ==== Sys2Proof/Machine/Step.lean ====
section
/-! DEFINITION. Step.lean: one step of the machine: an outside turn when one is given, else the event that is due, else the next
tile's instruction, else a cycle passes (log 1). Placing an instruction word where the next step fetches it (log 24). -/
namespace Sys2Proof.Machine

def step (s : State) : Host.Outcome State Fault Refusal :=
  match s.inputs with
  | .event i :: rest => if s.poweredDown && !wakes i then .next { s with inputs := rest } else exec i { s with inputs := rest }
  | .run n :: rest => { s with inputs := rest }.turn n
  | .tick :: rest => .next { s with inputs := rest }.pass
  | [] =>
    match s.dueEvent with
    | some i => exec i s
    | none =>
      match s.nextTile with
      | some n => s.turn n
      | none => .next s.pass

/-- The word laid in slot 0 of a line of job 1's code, and a task of a gang of that job running there on tile 0 (log 24). -/
def State.withFetchWord (s : State) (nbits w : Nat) : State :=
  let line := oneSlotLine (w % 2 ^ nbits % 2 ^ 96)
  let r : Record := { cp := 0x10000, fp := 0x400000, lin := 0, gang := 0, flags := mkFlags 1 0 1 false false }
  let g : Gang := { desc := plainDesc, foot := [⟨0x400000, 0x1800, .priv⟩], code := [⟨0x10000, 64⟩], consts := [], stream := 0,
                    ticket := 1, ctag := 0, stat := 0, phase := .running, dispatched := true,
                    tasks := [{ key := ⟨0, 1⟩, addr := 0x4017C0, root := some 0 }] }
  let j : Job := { polder := 0, jcbpa := 0x100000, s2root := 0, launches := 1, gangs := [(0, g)],
                   streams := [(0, { opened := true, tail := 1, head := 1 })], unseeded := false }
  let x : Xlat := ⟨1, 1, 1, 1, false, false, true, true, false, 0, 0, []⟩
  let t := s.tile 0
  let t := { t with owner := .job 1, wp := word (s.spSize 0 - 0x1800), cess := none, testing := none, dying := false,
                    tlb := [x], fbuf := [], icache := [], run := some { rcd := r, job := 1, pc := 0x10000 } }
  { s with mem := s.mem.writeBytes 0x10000 (leBytes 64 line.toNat), poison := clearPoison s.poison 0x10000 64,
           pend := [], inputs := [.run 0] }
    |>.setJob 1 j |>.setTile 0 (t.putSp (t.base + offF) (List.replicate 16 0xFF))

end Sys2Proof.Machine
end

