-- ==== Sys2Proof/Safety.lean ====
section
/-! DEFINITION. Safety.lean: the terms claims use. When a task can read and write its registers, the state an instruction leaves
when it retires, what a frame says, what a machine that keeps its memories in canonical form is. -/
namespace Sys2Proof.Machine

/-- No byte of the workspace is poisoned, no channel of the gang's requests holds a byte of it back, no request of the task
still owes its promise or has still to read there: the task reads and writes its registers freely (R139, R146, R275, R279). -/
def State.regsFree (s : State) (r : Run) : Bool :=
  let t := s.tile s.cur
  !t.spBad t.base Config.frameSize
    && !s.barges.any (fun b => decide (b.job = r.job) && decide (b.gang = r.gid) && b.failed.isNone
      && b.chans.any (fun c => c.blocks s.cur (Config.spBase + t.base) Config.frameSize))
    && !s.barges.any (fun b => decide (b.job = r.job) && decide (b.task = r.taskAddr) && !b.accepted && b.failed.isNone)
    && (s.workReads r).isEmpty

/-- The current tile runs `r`, whose registers are free. -/
structure State.Ready (s : State) (r : Run) : Prop where
  run : (s.tile s.cur).run = some r
  free : s.regsFree r = true

/-- The matrix state of the current tile is its task's own, or can be set aside for the root that waits there (R160, R326). -/
def State.matRoom (s : State) : Bool :=
  !((s.tile s.cur).root.any (·.mat.isNone)) || s.poolRoom s.cur (matNeed (s.tile s.cur).matClean)

/-- LATCH was not zero when the instruction began, so that retiring it counts LATCH down (R163). -/
def State.latched (s : State) : Bool := decide ((s.tile s.cur).ctl cLATCH ≠ 0)

/-- The instruction of `r` that began in `s` retires with its effect made in `s'`; control goes to `pc`. -/
def State.finishAt (s : State) (pc : Word) (s' : State) : State := s'.retire s.cur s.latched pc

/-- It retires and the next slot follows (R90). -/
def State.finish (s : State) (r : Run) (s' : State) : State := s.finishAt (nextPc r.pc) s'

/-- Bytes [o, o + n) of the scratchpad meet no byte of f0 and no control register of a workspace on the tile (R10, R132). -/
def Tile.keptApart (t : Tile) (o n : Nat) : Prop :=
  ∀ b ∈ t.images, (o + n ≤ b + 0x1200 ∨ b + 0x1210 ≤ o) ∧ (o + n ≤ b + 0x1480 ∨ b + 0x14C8 ≤ o)

/-- The current tile is `t`. -/
def State.withTile (s : State) (t : Tile) : State := s.setTile s.cur t

/-- Under a predicate the instruction makes its effect on the tile, or none (R95). -/
def State.finishIf (s : State) (r : Run) (p : Pred) (t : Tile) : State :=
  s.finish r (if (s.tile s.cur).enabled p then s.withTile t else s)

/-- An integer result put into w(D), its saturation into FPFLAGS (R147, R148). -/
def Tile.putResult (t : Tile) (ty : Ty) (sat : Bool) (d : WReg) (x : Int) : Tile :=
  (t.stick (saturate ty sat x).2).setW d (putInt ty (saturate ty sat x).1)

/-- A vector instruction of some lanes (R95, R142, R190): with none enabled it retires alone; else, once the streams its registers
are bound to have given their elements, its effect is made on the tile under the predicate word, and what it wrote is appended. -/
def State.VectorStep (s : State) (r : Run) (i : Instr) (p : Pred) (lanes : List Nat) (reads : List VReg) (dest : Option VReg)
    (effect : Tile → FWord → Tile → Prop) : Prop :=
  let w := (s.tile s.cur).predWord p
  ((∀ j ∈ lanes, w.getLsbD j = false) → exec i s = .next (s.finish r s))
  ∧ ((∃ j ∈ lanes, w.getLsbD j = true) → ∀ s1 : State, streamsBefore reads dest s = .ok ((), s1) → s1.Ready r → s1.cur = s.cur →
    ∃ t' : Tile, effect (s1.tile s.cur) w t'
      ∧ ∀ s3 : State, streamsAfter dest (s1.withTile t') = .ok ((), s3) → exec i s = .next (s.finish r s3))

/-- A vector result (R133, R190, R192): the elements `dom` names whose lanes are enabled are new, every other element of v(D) is old;
FPFLAGS gain the union of the enabled elements' flags; each enabled element counts `per` operations of its type (R351). Nothing
else of the tile changes. -/
def Tile.VectorResult (t : Tile) (ty : Ty) (w : FWord) (d : VReg) (per : Nat) (dom : Nat → Bool) (f : Nat → Nat × Fl) (t' : Tile) :
    Prop :=
  let on (j : Nat) : Bool := dom j && w.getLsbD (if ty.bits < 8 then j * ty.bits / 8 else j)
  ∃ (v : VWord) (fl : Fl),
    (∀ j, j < 1024 / ty.bits → vElem ty.bits v j = if on j then (f j).1 % 2 ^ ty.bits else vElem ty.bits (t.v d) j)
    ∧ (∀ k, fl.getLsbD k = true ↔ ∃ j, j < 1024 / ty.bits ∧ on j = true ∧ (f j).2.getLsbD k = true)
    ∧ t' = ((t.stick fl).setV d v).count (16 + ty.code) (per * (List.range (1024 / ty.bits)).countP on)

/-- A result of enabled lanes in a scalar register (R190, R201): flags, w(D), the operations counted. -/
def Tile.laneResult (t : Tile) (d : WReg) (v : Word) (fl : Fl) (ty : Ty) (n : Nat) : Tile :=
  ((t.stick fl).setW d v).count (16 + ty.code) n

end Sys2Proof.Machine
end

