-- ==== Sys2Proof/Certificates/Slice0/Obligations.lean ====
section
/-! DEFINITION. Obligations.lean: what is to be proved of the machine. -/
open Sys2Proof Sys2Proof.Machine

/-! Scalar instructions (groups 0x10 to 0x14). -/

/-- R149, R95: sums, differences, products, halves of products, minima, maxima, absolute values and negatives are computed of
exact integers, saturated where asked and put into w(D); with the predicate off nothing of it happens. -/
def Obligations.IntegerArithmetic : Prop :=
  ∀ (s : State) (r : Run), s.Ready r → ∀ (p : Pred) (ty : Ty) (sat : Bool) (d a : WReg) (b : OpB),
    let t := s.tile s.cur
    let x := intVal ty (t.w a)
    let y := intVal ty (t.opB b)
    exec (.iadd p ty sat d a b) s = .next (s.finishIf r p (t.putResult ty sat d (x + y)))
    ∧ exec (.isub p ty sat d a b) s = .next (s.finishIf r p (t.putResult ty sat d (x - y)))
    ∧ exec (.imul p ty sat d a b) s = .next (s.finishIf r p (t.putResult ty sat d (x * y)))
    ∧ exec (.imulh p ty d a b) s = .next (s.finishIf r p (t.putResult ty false d (x * y / 2 ^ ty.bits)))
    ∧ exec (.imulhn p ty d a b) s = .next (s.finishIf r p (t.putResult ty false d (x * y / 2 ^ ty.bits)))
    ∧ exec (.imin p ty d a b) s = .next (s.finishIf r p (t.putResult ty false d (if x ≤ y then x else y)))
    ∧ exec (.imax p ty d a b) s = .next (s.finishIf r p (t.putResult ty false d (if x ≤ y then y else x)))
    ∧ exec (.iminn p ty d a b) s = .next (s.finishIf r p (t.putResult ty false d (if x ≤ y then x else y)))
    ∧ exec (.imaxn p ty d a b) s = .next (s.finishIf r p (t.putResult ty false d (if x ≤ y then y else x)))
    ∧ exec (.iabs p ty sat d a) s = .next (s.finishIf r p (t.putResult ty sat d (if x < 0 then -x else x)))
    ∧ exec (.ineg p ty sat d a) s = .next (s.finishIf r p (t.putResult ty sat d (-x)))

/-- R149: quotients are truncated toward zero and remainders take the sign of the dividend; a division by zero gives −1, the
greatest natural, or the dividend, sets DZ and never traps. (That 0 divided by 0 sets DZ, which R149 and R184 give and R189's table
does not name, is the model's reading, log 115.) -/
def Obligations.IntegerDivision : Prop :=
  ∀ (s : State) (r : Run), s.Ready r → ∀ (p : Pred) (ty : Ty) (sat : Bool) (d a : WReg) (b : OpB),
    let t := s.tile s.cur
    let x := intVal ty (t.w a)
    let y := intVal ty (t.opB b)
    let byZero (z : Int) := (t.stick fDZ).setW d (putInt ty z)
    (y = 0 →
      exec (.idiv p ty sat d a b) s = .next (s.finishIf r p (byZero (-1)))
      ∧ exec (.idivn p ty d a b) s = .next (s.finishIf r p (byZero (2 ^ ty.bits - 1)))
      ∧ exec (.irem p ty d a b) s = .next (s.finishIf r p (byZero x))
      ∧ exec (.iremn p ty d a b) s = .next (s.finishIf r p (byZero x)))
    ∧ (y ≠ 0 → ∃ q m : Int, x = q * y + m ∧ m.natAbs < y.natAbs ∧ 0 ≤ m * x
      ∧ exec (.idiv p ty sat d a b) s = .next (s.finishIf r p (t.putResult ty sat d q))
      ∧ exec (.idivn p ty d a b) s = .next (s.finishIf r p (t.putResult ty false d q))
      ∧ exec (.irem p ty d a b) s = .next (s.finishIf r p (t.putResult ty false d m))
      ∧ exec (.iremn p ty d a b) s = .next (s.finishIf r p (t.putResult ty false d m)))

/-- R147, R148: what putting a result of a type of at most 64 bits does: with saturation the register holds the nearest value
of the type and SAT is set exactly when the result was outside it; without, it holds the result modulo 2^s, sign-extended for a
signed type and zero-extended for a natural one, and no flag is set. -/
def Obligations.IntegerResultValue : Prop :=
  ∀ (t : Tile) (ty : Ty) (sat : Bool) (d : WReg) (x : Int), ty.isInt = true →
    let lo : Int := if ty.signed then -(2 ^ (ty.bits - 1)) else 0
    let hi : Int := if ty.signed then 2 ^ (ty.bits - 1) - 1 else 2 ^ ty.bits - 1
    let t' := t.putResult ty sat d x
    (∃ v : Int, lo ≤ v ∧ v ≤ hi
      ∧ t'.w d = BitVec.ofInt 64 v
      ∧ (lo ≤ x → x ≤ hi → v = x)
      ∧ (sat = true → x < lo → v = lo)
      ∧ (sat = true → hi < x → v = hi)
      ∧ (sat = false → v % 2 ^ ty.bits = x % 2 ^ ty.bits))
    ∧ t'.ctl cFPFLAGS = (if sat = true ∧ (x < lo ∨ hi < x) then t.ctl cFPFLAGS ||| 32 else t.ctl cFPFLAGS)

/-- R150: logic, shifts by the low six bits of the second operand, rotation, and counts of 64-bit patterns; they write w(D) and nothing
else. A rotation by −k is one to the right by k. IB = 1 on a count, a B beside an immediate, and a TY, MOD, SC or C that is not zero are
no instruction, and the slot that holds such a word raises ILLEGAL_INSTRUCTION. -/
def Obligations.LogicShiftCount : Prop :=
  (∀ (s : State) (r : Run), s.Ready r → ∀ (p : Pred) (d a : WReg) (b : OpB),
    let t := s.tile s.cur
    let x := t.w a
    let y := t.opB b
    let n := y.toNat % 64
    exec (.iand p d a b) s = .next (s.finishIf r p (t.setW d (x &&& y)))
    ∧ exec (.ior p d a b) s = .next (s.finishIf r p (t.setW d (x ||| y)))
    ∧ exec (.ixor p d a b) s = .next (s.finishIf r p (t.setW d (x ^^^ y)))
    ∧ exec (.iandn p d a b) s = .next (s.finishIf r p (t.setW d (x &&& ~~~y)))
    ∧ exec (.ishl p d a b) s = .next (s.finishIf r p (t.setW d (word (x.toNat * 2 ^ n))))
    ∧ exec (.ishr p d a b) s = .next (s.finishIf r p (t.setW d (word (x.toNat / 2 ^ n))))
    ∧ exec (.isar p d a b) s = .next (s.finishIf r p (t.setW d (BitVec.ofInt 64 (x.toInt / 2 ^ n))))
    ∧ exec (.irot p d a b) s = .next (s.finishIf r p (t.setW d ((x <<< n) ||| (x >>> (64 - n)))))
    ∧ (∀ k, k < 64 → y = 0 - word k → exec (.irot p d a b) s = .next (s.finishIf r p (t.setW d (x.rotateRight k))))
    ∧ (∃ k : Nat, k ≤ 64 ∧ (∀ i, 64 - k ≤ i → x.getLsbD i = false) ∧ (k < 64 → x.getLsbD (63 - k) = true)
      ∧ exec (.clz p d a) s = .next (s.finishIf r p (t.setW d (word k))))
    ∧ (∃ k : Nat, k ≤ 64 ∧ (∀ i, i < k → x.getLsbD i = false) ∧ (k < 64 → x.getLsbD k = true)
      ∧ exec (.ctz p d a) s = .next (s.finishIf r p (t.setW d (word k))))
    ∧ exec (.popc p d a) s = .next (s.finishIf r p (t.setW d (word ((List.range 64).countP (fun i => x.getLsbD i))))))
  ∧ (∀ w : IWord,
    let least := w.extractLsb' 80 8
    let ib := w.extractLsb' 40 1
    w.extractLsb' 88 8 = 0x11 →
    w.extractLsb' 41 17 ≠ 0 ∨ (ib = 1 ∧ w.extractLsb' 58 6 ≠ 0) ∨ (ib = 1 ∧ (least = 8 ∨ least = 9 ∨ least = 10)) →
    decode w = none ∧ ∀ (s s1 : State) (n lw : Nat) (r : Run), (s.tile n).run = some r → r.pend = none → r.firm ≠ some .restore →
      s.carried n r = none → s.fetchCheck n r r.pc r.entry = .ok (s1, w, lw) →
      s.fetchTurn n = .over ((s1.entered n).takeTrap n r 0x01 r.pc))

/-- R151 to R153: a comparison writes every bit of f(D); isel chooses on bit 0; ext, extn and ins move a field of LEN bits at
POS; li loads its constant; lea adds a scaled operand to a base or to the PC. -/
def Obligations.SelectFieldAddress : Prop :=
  ∀ (s : State) (r : Run), s.Ready r → ∀ (p : Pred) (d a : WReg) (b : OpB),
    let t := s.tile s.cur
    let x := t.w a
    let y := t.opB b
    (∀ (ty : Ty) (f : FReg),
      let i := intVal ty x
      let j := intVal ty y
      let set (c : Bool) := t.setF f (if c then onesF else 0)
      exec (.icmp p ty .eq f a b) s = .next (s.finishIf r p (set (decide (i = j))))
      ∧ exec (.icmp p ty .ne f a b) s = .next (s.finishIf r p (set (decide (i ≠ j))))
      ∧ exec (.icmp p ty .lt f a b) s = .next (s.finishIf r p (set (decide (i < j))))
      ∧ exec (.icmp p ty .le f a b) s = .next (s.finishIf r p (set (decide (i ≤ j))))
      ∧ exec (.icmp p ty .gt f a b) s = .next (s.finishIf r p (set (decide (j < i))))
      ∧ exec (.icmp p ty .ge f a b) s = .next (s.finishIf r p (set (decide (j ≤ i)))))
    ∧ (∀ c : FReg, exec (.isel p d a b c) s = .next (s.finishIf r p (t.setW d (if (t.f c).getLsbD 0 then x else y))))
    ∧ (∀ (pos : BitVec 6) (len : BitVec 7), 1 ≤ len.toNat → pos.toNat + len.toNat ≤ 64 →
      let field := x.toNat / 2 ^ pos.toNat % 2 ^ len.toNat
      ∃ e n i : Word, exec (.ext p d a pos len) s = .next (s.finishIf r p (t.setW d e))
      ∧ exec (.extn p d a pos len) s = .next (s.finishIf r p (t.setW d n))
      ∧ exec (.ins p d a pos len) s = .next (s.finishIf r p (t.setW d i))
      ∧ n.toNat = field
      ∧ e.toInt = (if field < 2 ^ (len.toNat - 1) then (field : Int) else (field : Int) - 2 ^ len.toNat)
      ∧ ∀ k, k < 64 → i.getLsbD k = if pos.toNat ≤ k ∧ k < pos.toNat + len.toNat then x.getLsbD (k - pos.toNat)
          else (t.w d).getLsbD k)
    ∧ (∀ imm : Word, exec (.li p d imm) s = .next (s.finishIf r p (t.setW d imm)))
    ∧ (∀ sh : BitVec 3, exec (.lea p false sh d a b) s = .next (s.finishIf r p (t.setW d (word (x.toNat + y.toNat * 2 ^ sh.toNat)))))
    ∧ (∀ sh : BitVec 3, exec (.lea p true sh d a b) s = .next (s.finishIf r p (t.setW d (word (r.pc.toNat + y.toNat * 2 ^ sh.toNat)))))

/-! Control (groups 0x01 to 0x05). -/

/-- R154, R93, R90: a transfer whose target passes checks 1 to 5 sends control there, its link or counter written; a loop whose
counter ends falls through with no check; a target that fails, of ret and jr too, is a trap at the transferring instruction with
nothing written. -/
def Obligations.Transfers : Prop :=
  ∀ (s : State) (r : Run), s.Ready r → ∀ (p : Pred), (s.tile s.cur).enabled p = true →
    ∀ (d a : WReg) (slot : Fin 5) (disp : BitVec 40),
    let t := s.tile s.cur
    let T := word (r.pc.toNat / 64 * 64 + 12 * slot.val) + BitVec.ofInt 64 (64 * disp.toInt)
    let next := nextPc r.pc
    let c := t.w a - 1
    (∀ s1 : State, checkTarget T s = .ok ((), s1) →
      exec (.br p slot disp) s = .next (s.finishAt T s1)
      ∧ exec (.call p d slot disp) s = .next (s.finishAt T (s1.setTile s1.cur ((s1.tile s1.cur).setW d next)))
      ∧ (c ≠ 0 → T ≠ next →
        exec (.loop p a slot disp) s = .next (s.finishAt T (s1.setTile s1.cur ((s1.tile s1.cur).setW a c)))))
    ∧ (c = 0 ∨ T = next → exec (.loop p a slot disp) s = .next (s.finishAt next (s.withTile (t.setW a c))))
    ∧ (∀ s1 : State, checkTarget (t.w a) s = .ok ((), s1) →
      exec (.ret p a) s = .next (s.finishAt (t.w a) s1)
      ∧ exec (.jr p none a) s = .next (s.finishAt (t.w a) s1)
      ∧ exec (.jr p (some d) a) s = .next (s.finishAt (t.w a) (s1.setTile s1.cur ((s1.tile s1.cur).setW d next))))
    ∧ (∀ (s1 : State) (code : Nat), checkTarget (t.w a) s = .error { why := .trap code (t.w a), keep := some s1 } →
      let out := s1.takeTrap s.cur (((s1.tile s.cur).run).getD r) code (t.w a)
      exec (.ret p a) s = .next out ∧ ∀ link : Option WReg, exec (.jr p link a) s = .next out)
    ∧ (∀ (s1 : State) (code : Nat), checkTarget T s = .error { why := .trap code T, keep := some s1 } →
      let out := s1.takeTrap s.cur (((s1.tile s.cur).run).getD r) code T
      exec (.br p slot disp) s = .next out
      ∧ exec (.call p d slot disp) s = .next out
      ∧ (c ≠ 0 → T ≠ next → exec (.loop p a slot disp) s = .next out))

/-- R87: the first check that fails decides: a PC that is no slot is MISALIGNED_PC, a PC at or above 2^60 or outside the job's
code regions is PERMISSION_FAULT, and a target whose TMASK bit is clear is ILLEGAL_TARGET. -/
def Obligations.TargetChecks : Prop :=
  ∀ (s : State) (r : Run), (s.tile s.cur).run = some r → ∀ (T : Word),
    let off := T.toNat % 64
    let slot := off = 0 ∨ off = 12 ∨ off = 24 ∨ off = 36 ∨ off = 48
    (¬ slot → checkTarget T s = .error { why := .trap 0x02 T, keep := some s })
    ∧ (slot → 2 ^ 60 ≤ T.toNat → checkTarget T s = .error { why := .trap 0x06 T, keep := some s })
    ∧ (slot → r.sup = false → (∀ c ∈ s.codeOf r, ¬ (c.base ≤ T.toNat / 64 * 64 ∧ T.toNat / 64 * 64 + 64 ≤ c.base + c.len)) →
      checkTarget T s = .error { why := .trap 0x06 T, keep := some s })
    ∧ (slot → T.toNat < 2 ^ 60 → s.codeOk r (T.toNat / 64 * 64) = true → ∀ (s1 : State) (line : BitVec 512),
      s.fetchLine s.cur r T.toNat = .ok (s1, line) →
      checkTarget T s = if line.getLsbD (480 + off / 12) then .ok ((), s1) else .error { why := .trap 0x03 T, keep := some s1 })

/-- R322, R320: a trap of class T in task mode. With INTRAP set, or without TRAPVEC, the gang fails; else TCAUSE, TVAL and TPC
are written and control passes to TRAPVEC, whose line must pass the checks. An entry that fails check 1, 2, 4 or the TMASK check
makes the gang fail with DETAIL 2; one whose line does not translate suspends the task, the trap state written. In supervisor
mode a trap is a machine check. Poison in the registers that the entry reads is an uncorrectable error (R146).
(The model's readings: that the record of a failed entry carries the code and target of its own check, log 64; that poison of
TCAUSE and TRAPVEC is consumed by an entry, log 100.) -/
def Obligations.TrapEntry : Prop :=
  ∀ (s : State) (r : Run), (s.tile s.cur).run = some r → ∀ (cause : Nat) (tval : Word),
    let t := s.tile s.cur
    let fails (d : Nat) := s.failTask r.job r.rcd { detail := d, tval := tval.toNat, code := cause, tile := s.cur }
    let r1 := { r with pc := t.ctl cTRAPVEC, entry := true, vec := true, stall := none, pend := none, verdict := none, sent := none, begun := none, swapped := none }
    let tpc := if cause = 0x13 then nextPc r.pc else r.pc
    let t1 := { ((t.setCtl cTCAUSE (word (2 ^ 63 + cause))).setCtl cTVAL tval).setCtl cTPC tpc with run := some r1 }
    let entry := (s.withTile t1).fetchCheck s.cur r1 (t.ctl cTRAPVEC) true
    let out := s.takeTrap s.cur r cause tval
    (r.sup = true → out = s.markDead s.cur)
    ∧ (r.sup = false → t.spBad (t.base + 0x1488) 16 = true → out = s.taskError r.job r.rcd s.cur)
    ∧ (r.sup = false → t.spBad (t.base + 0x1488) 16 = false →
      ((t.ctl cTCAUSE).getLsbD 63 = true → out = fails 2)
      ∧ ((t.ctl cTCAUSE).getLsbD 63 = false → t.ctl cTRAPVEC = 0 → out = fails 1)
      ∧ ((t.ctl cTCAUSE).getLsbD 63 = false → t.ctl cTRAPVEC ≠ 0 →
        (∀ (s1 : State) (i : IWord) (lw : Nat), entry = .ok (s1, i, lw) → out = s1.entered s.cur)
        ∧ (∀ (s1 : State) (c : Nat), entry = .error (.trap s1 c) →
          out = s1.failTask r.job r.rcd { detail := 2, tval := (t.ctl cTRAPVEC).toNat, code := c, tile := s.cur })
        ∧ (∀ x : XFault, entry = .error (.xlate x) → out = (s.withTile t1).faultTask s.cur r1 x)
        ∧ (∀ s1 : State, entry = .error (.poison s1) → out = s1.taskError r.job r.rcd s.cur)))

/-- R156, R157, R162, R136: trap raises SOFTWARE_TRAP with its code; uret and eret return where and in the mode the manual
says (the eret that ends the restore of a record leaves the marks of its next fetch, R328); eret, wpsw and the supervisor registers are illegal in task mode, uret in supervisor mode. -/
def Obligations.TrapsReturnsPrivilege : Prop :=
  ∀ (s : State) (r : Run), s.Ready r → ∀ (p : Pred), (s.tile s.cur).enabled p = true →
    let t := s.tile s.cur
    let illegal := s.takeTrap s.cur r 0x01 r.pc
    (∀ code : BitVec 16, exec (.trap p code) s = .next (s.takeTrap s.cur r 0x13 (word code.toNat)))
    ∧ (r.sup = false → exec (.uret p) s =
        .next (s.finishAt (t.ctl cTPC) (s.withTile (t.setCtl cTCAUSE ((t.ctl cTCAUSE) &&& word (2 ^ 63 - 1))))))
    ∧ (r.sup = true → exec (.eret p) s = .next (s.withTile { t with run := (
        some { r with pc := t.sepc, sup := t.sstat.getLsbD 0, stall := none, firm := none, entry := r.entry && r.firm.isSome, vec := r.vec && r.firm.isSome }) }))
    ∧ (r.sup = false → exec (.eret p) s = .next illegal)
    ∧ (r.sup = true → exec (.uret p) s = .next illegal)
    ∧ (r.sup = false → ∀ d a : WReg, exec (.wpsw p d a) s = .next illegal
        ∧ exec (.movc p d 0x100) s = .next illegal ∧ exec (.movc p d 0x101) s = .next illegal
        ∧ exec (.mtc p a 0x100) s = .next illegal ∧ exec (.mtc p a 0x101) s = .next illegal)

/-- R161, R136, R323: movc reads each control register of the list, SEPC and SSTAT in supervisor mode, and of no other number.
R161, R136, R10: mtc writes the registers of access RW, their reserved bits ignored; the others are illegal uses. -/
def Obligations.ControlRegisters : Prop :=
  (∀ (s : State) (r : Run), s.Ready r → ∀ (p : Pred) (d : WReg),
      let t := s.tile s.cur
      let g := s.runGang r
      let reads (n : BitVec 12) (v : Word) := exec (.movc p d n) s = .next (s.finishIf r p (t.setW d v))
      reads 0x000 t.wp ∧ reads 0x001 r.pc ∧ reads 0x002 (t.ctl 0x1488) ∧ reads 0x003 (t.ctl 0x1490 &&& word (2 ^ 63 + 63)) ∧ reads 0x004 (t.ctl 0x1498)
      ∧ reads 0x005 (t.ctl 0x14A0) ∧ reads 0x008 (t.ctl 0x1480 &&& 63)
      ∧ reads 0x010 (match g with | some g => word (g.ticket % 2 ^ 48) | none => 0)
      ∧ reads 0x011 (match g with | some g => word (g.stream % 16) | none => 0) ∧ reads 0x012 (word r.rcd.gang.toNat)
      ∧ reads 0x013 (word (r.rcd.fp.toNat + 0x17C0)) ∧ reads 0x014 (word r.rcd.lin.toNat) ∧ reads 0x015 (word (r.rcd.lin.toNat / 2 ^ 64))
      ∧ reads 0x016 (word r.rcd.stage.toNat) ∧ reads 0x017 (word t.strip.toNat) ∧ reads 0x018 (word r.job) ∧ reads 0x019 (word s.cur)
      ∧ reads 0x020 (word t.tenure.toNat) ∧ reads 0x021 (word t.pres.toNat) ∧ reads 0x028 s.ccy
      ∧ (r.sup = true → reads 0x100 t.sepc ∧ reads 0x101 t.sstat)
      ∧ reads 0x029 (match g with
        | some g => if g.desc.dsm then word (2 ^ g.desc.qlog2 + g.quantum % 2 ^ 32 * 2 ^ 32) else 0
        | none => 0)
      ∧ (∀ k : Fin 4, reads (BitVec.ofNat 12 (0x030 + k.val)) (t.ctl (0x14A8 + 8 * k.val) &&& word (2 ^ 62 - 1)))
      ∧ (∀ k : TReg, s.matRoom = true → t.prepMat.mat.bad = [] → t.enabled p = true → exec (.movc p d (BitVec.ofNat 12 (0x040 + k.val))) s
        = .next (s.finish r (s.withTile (t.prepMat.setW d (t.prepMat.mat.bytes.word (0x60000 + 8 * k.val))))))
      ∧ (∀ n : BitVec 12, t.enabled p = true → (n.toNat = 6 ∨ n.toNat = 7 ∨ (9 ≤ n.toNat ∧ n.toNat < 0x10) ∨ (0x1A ≤ n.toNat ∧ n.toNat < 0x20)
          ∨ (0x22 ≤ n.toNat ∧ n.toNat < 0x28) ∨ (0x2A ≤ n.toNat ∧ n.toNat < 0x30) ∨ (0x34 ≤ n.toNat ∧ n.toNat < 0x40)
          ∨ (0x48 ≤ n.toNat ∧ n.toNat < 0x100) ∨ 0x102 ≤ n.toNat) →
        exec (.movc p d n) s = .next (s.takeTrap s.cur r 0x01 r.pc)))
  ∧ (∀ (s : State) (r : Run), s.Ready r → ∀ (p : Pred) (a : WReg),
      let t := s.tile s.cur
      let v := t.w a
      let writes (n : BitVec 12) (t' : Tile) := exec (.mtc p a n) s = .next (s.finishIf r p t')
      writes 0x002 (t.setCtl cTRAPVEC v) ∧ writes 0x004 (t.setCtl cTPC v) ∧ writes 0x005 (t.setCtl cTVAL v)
      ∧ (∃ c f : Word, writes 0x003 (t.setCtl cTCAUSE c) ∧ writes 0x008 (t.setCtl cFPFLAGS f)
        ∧ (∀ i, i < 64 → c.getLsbD i = (if i < 6 ∨ i = 63 then v else t.ctl cTCAUSE).getLsbD i)
        ∧ (∀ i, i < 64 → f.getLsbD i = (if i < 6 then v else t.ctl cFPFLAGS).getLsbD i))
      ∧ writes 0x017 { t with strip := v.setWidth 16 }
      ∧ (∀ k : TReg, s.matRoom = true → writes (BitVec.ofNat 12 (0x040 + k.val)) (t.prepMat.setTcfg k v))
      ∧ (∀ k : TReg, s.matRoom = false → t.enabled p = true →
        exec (.mtc p a (BitVec.ofNat 12 (0x040 + k.val))) s = .next (s.noteStall s.cur .matrixWait))
      ∧ (r.sup = true → writes 0x100 { t with sepc := v }
        ∧ writes 0x101 { t with sstat := BitVec.ofNat 64 (t.sstat.toNat / 2 * 2 + v.toNat % 2) })
      ∧ (∀ n : BitVec 12, t.enabled p = true → (n.toNat = 0 ∨ n.toNat = 1 ∨ n.toNat = 6 ∨ n.toNat = 7 ∨ (9 ≤ n.toNat ∧ n.toNat < 0x17)
          ∨ (0x18 ≤ n.toNat ∧ n.toNat < 0x40) ∨ (0x48 ≤ n.toNat ∧ n.toNat < 0x100) ∨ 0x102 ≤ n.toNat) →
        exec (.mtc p a n) s = .next (s.takeTrap s.cur r 0x01 r.pc)))

/-- R162, R163, R132, R10: in supervisor mode wpsw moves the workspace, whose f0 is then all ones (R132) and whose reserved control bits
are zero (R10), and writes the old base in the new one; a bad base is a machine check; prel clears the latch, or arms it when it is zero
and no pre-emption is pending (R163). (That the other bits of the control block, BOUND, NEXT and LATCH among them, stay as they stand in
the new image is the model's choice, log 131.) -/
def Obligations.WorkspaceAndLatch : Prop :=
  ∀ (s : State) (r : Run), s.Ready r → ∀ (p : Pred), (s.tile s.cur).enabled p = true →
    let t := s.tile s.cur
    (∀ d a : WReg, r.sup = true →
      let new := (t.w a)
      let good := new.toNat % 256 = 0 ∧ new.toNat + 0x1800 ≤ s.spSize s.cur
      let u := { t with wp := new }.asWorkspace
      (good → exec (.wpsw p d a) s = .next (s.finish r (s.withTile (u.setW d t.wp)))
        ∧ u = { t with wp := new, sp := u.sp, spPoison := u.spPoison } ∧ (∀ k ∈ u.spPoison, k ∈ t.spPoison)
        ∧ u.sp.readBytes (new.toNat + 0x1200) 16 = List.replicate 16 0xFF
        ∧ u.ctl 0x1480 = t.sp.word (new.toNat + 0x1480) &&& 63 ∧ u.ctl 0x1490 = t.sp.word (new.toNat + 0x1490) &&& word (2 ^ 63 + 63)
        ∧ (∀ k : Fin 4, u.ctl (0x14A8 + 8 * k.val) = t.sp.word (new.toNat + 0x14A8 + 8 * k.val) &&& word (2 ^ 62 - 1))
        ∧ ∀ x, ¬ (new.toNat + 0x1200 ≤ x ∧ x < new.toNat + 0x1210) → ¬ (new.toNat + 0x1480 ≤ x ∧ x < new.toNat + 0x14C8) →
          u.sp.get x = t.sp.get x)
      ∧ (¬ good → exec (.wpsw p d a) s = .next (s.takeTrap s.cur r 0x06 new) ∧ s.takeTrap s.cur r 0x06 new = s.markDead s.cur))
    ∧ (∀ d a : WReg, r.sup = false → exec (.wpsw p d a) s = .next (s.takeTrap s.cur r 0x01 r.pc))
    ∧ exec (.prel p 0) s = .next (s.finish r (s.withTile (t.setCtl cLATCH 0)))
    ∧ (∀ n : BitVec 9, n ≠ 0 → exec (.prel p n) s = .next (s.finish r
        (if t.ctl cLATCH = 0 ∧ r.reqs = [] then s.withTile (t.setCtl cLATCH (word n.toNat)) else s)))

/-- R103, R164 to R166, R271: nop does nothing; rdid, rdccy and rdterr write what they read; ifence empties the fetch buffer. -/
def Obligations.IdentityTimeTerritory : Prop :=
  ∀ (s : State) (r : Run), s.Ready r → ∀ (p : Pred) (d a : WReg),
    let t := s.tile s.cur
    let n := s.cur
    let id (sel : BitVec 4) (v : Nat) := exec (.rdid p d sel) s = .next (s.finishIf r p (t.setW d (word v)))
    exec (.nop p) s = .next (s.finish r s)
    ∧ exec (.ifence p) s = .next (s.finishIf r p { t with fbuf := [] })
    ∧ exec (.rdccy p d) s = .next (s.finishIf r p (t.setW d s.ccy))
    ∧ id 0 n ∧ id 1 (n % 24) ∧ id 2 (n / 24) ∧ id 3 (n % 24 / 12 + 2 * (n / 24 / 12)) ∧ id 4 (n % 24 / 6 + 4 * (n / 24 / 6))
    ∧ id 5 (r.rcd.flags.toNat % 64) ∧ id 6 (r.rcd.lin.toNat / 2 ^ (128 - 4 * (r.rcd.flags.toNat % 64)) % 16)
    ∧ id 7 (r.rcd.flags.toNat / 2048 % 8) ∧ id 8 (r.rcd.lin.toNat / 2 ^ (128 - 4 * (r.rcd.flags.toNat / 2048 % 8)))
    ∧ (∀ j : Job, s.job? r.job = some j →
      let m := (t.w a).toNat
      let q := s.tile m
      exec (.rdterr p d a true) s = .next (s.finishIf r p (t.setW d (word (s.jcb j 0x204 2 * 2 ^ 32 + s.jcb j 0x200 4))))
      ∧ (576 ≤ m → exec (.rdterr p d a false) s = .next (s.finishIf r p (t.setW d 0)))
      ∧ (m < 576 → q.owner = .job r.job →
        exec (.rdterr p d a false) s = .next (s.finishIf r p (t.setW d (word (q.tenure.toNat * 2 ^ 32 + q.pres.toNat * 2 ^ 16 + 1)))))
      ∧ (m < 576 → q.owner = .dead → exec (.rdterr p d a false) s = .next (s.finishIf r p (t.setW d 2)))
      ∧ (m < 576 → q.owner ≠ .job r.job → (s.polderOfTile m).map (·.1) ≠ some j.polder →
        exec (.rdterr p d a false) s = .next (s.finishIf r p (t.setW d 2)))
      ∧ (m < 576 → (s.polderOfTile m).map (·.1) = some j.polder →
        q.owner = .unowned ∨ (∃ k, q.owner = .transit k) ∨ (∃ k, k ≠ r.job ∧ q.owner = .job k) →
        exec (.rdterr p d a false) s = .next (s.finishIf r p (t.setW d 0))))

/-! Memory (groups 0x20 to 0x27). -/

/-- R261, R262, R264, R266, R267: an aligned scalar load whose byte checks pass puts what it read into w(D), sign- or
zero-extended; an ordered one performs its acquire first; a misaligned one traps with its address.
R261, R262, R264, R266: an aligned scalar store whose byte checks pass stores the low bytes of w(C) at its address, after
the release it carries; a misaligned one traps with its address. -/
def Obligations.ScalarAccess : Prop :=
  (∀ (s : State) (r : Run), s.Ready r → ∀ (p : Pred), (s.tile s.cur).enabled p = true → ∀ (ty : Ty) (o : Order) (d a : WReg) (b : OpB),
      let t := s.tile s.cur
      let ea := t.w a + t.opB b
      let n := ty.bits / 8
      let put (u : State) (bs : List (List Byte)) := u.setTile u.cur ((u.tile u.cur).setW d (putInt ty (leVal bs.flatten)))
      (ea.toNat % n ≠ 0 → ∀ c : BitVec 4,
        let out := s.takeTrap s.cur r 0x08 ea
        exec (.ld p ty o d a b) s = .next out ∧ exec (.ldrc p ty c d a b) s = .next out ∧ exec (.ldc p ty d a b) s = .next out)
      ∧ (ea.toNat % n = 0 → ∀ (ls : List Lane) (s1 s2 s3 : State) (bs : List (List Byte)),
        checkLanes .load [(ea.toNat, n)] s = .ok (ls, s1) →
        (acquirePart o s1 = .ok ((), s2) → loadLanes ls s2 = .ok (bs, s3) →
          exec (.ld p ty o d a b) s = .next (s.finish r (put s3 bs)))
        ∧ (ls.mapM loadLane s1 = .ok (bs, s2) → ∀ c : BitVec 4,
          exec (.ldrc p ty c d a b) s = .next (s.finish r (put (s2.l1Resid s2.cur (l1Keys (s2.siteOf s2.cur) ls) c.toNat) bs))))
      ∧ (ea.toNat % n = 0 → ∀ (ls : List Lane) (s1 s2 : State) (bs : List (List Byte)),
        checkLanes .konst [(ea.toNat, n)] s = .ok (ls, s1) → ls.mapM constLane s1 = .ok (bs, s2) →
          exec (.ldc p ty d a b) s = .next (s.finish r (put s2 bs))))
  ∧ (∀ (s : State) (r : Run), s.Ready r → ∀ (p : Pred), (s.tile s.cur).enabled p = true → ∀ (ty : Ty) (o : Order) (a c : WReg) (b : OpB),
      let t := s.tile s.cur
      let ea := t.w a + t.opB b
      let n := ty.bits / 8
      (ea.toNat % n ≠ 0 → exec (.st p ty o a b c) s = .next (s.takeTrap s.cur r 0x08 ea))
      ∧ (ea.toNat % n = 0 → ∀ (l : Lane) (s1 s2 s3 : State), checkLanes .store [(ea.toNat, n)] s = .ok ([l], s1) →
        releasePart o s1 = .ok ((), s2) → storeLane l (leBytes n (t.w c).toNat) s2 = .ok ((), s3) →
        exec (.st p ty o a b c) s = .next (s.finish r s3)))

/-- R242, R264, R132, R135, R138: a scalar access in the scratchpad window reads or writes the executing tile's own bytes, at the
offset of its address, whatever the type; nothing else of the machine changes but what retiring changes. In task mode the bytes
from WP + 0x1480 take no store; supervisor code stores there, reserved bits of control registers staying zero (R10). The bytes of f0
stay all ones whoever stores to them, those of a root that waits on the tile too. -/
def Obligations.WindowAccess : Prop :=
  ∀ (s : State) (r : Run), s.Ready r → s.barges = [] → ∀ (p : Pred), (s.tile s.cur).enabled p = true →
    ∀ (ty : Ty) (d a c : WReg) (b : OpB) (o : Nat),
    let t := s.tile s.cur
    let n := ty.bits / 8
    let u := t.putSp o (leBytes n (t.w c).toNat)
    let clear := o + n ≤ t.base + 0x1480 ∨ t.base + 0x1800 ≤ o
    let f0 (x : Nat) := t.base + 0x1200 ≤ x ∧ x < t.base + 0x1210
    let regs (x : Nat) := t.base + 0x1480 ≤ x ∧ x < t.base + 0x14C8
    let stored := exec (.st p ty .plain a b c) s
    8 ≤ ty.bits → (t.w a + t.opB b).toNat = 0x0FFFFFFFFE000000 + o → o % n = 0 → o + n ≤ s.spSize s.cur →
    (t.spBad o n = false → (o + n ≤ t.base + 0x1518 ∨ t.base + 0x1800 ≤ o ∨ r.sup = true) →
      exec (.ld p ty .plain d a b) s = .next (s.finish r (s.withTile (t.setW d (putInt ty (t.sp.readLE o n))))))
    ∧ (clear ∨ r.sup = true → stored = .next (s.finish r (s.withTile (t.storeSp o (leBytes n (t.w c).toNat)))))
    ∧ (clear ∨ r.sup = true → t.keptApart o n → stored = .next (s.finish r (s.withTile u)))
    ∧ (clear ∨ r.sup = true → t.root = none → ∃ m : Memory, stored = .next (s.finish r (s.withTile { u with sp := m }))
      ∧ (∀ x, f0 x → (∃ y, o ≤ y ∧ y < o + n ∧ f0 y) → m.get x = 0xFF)
      ∧ (∀ x, ¬ f0 x → ¬ regs x → m.get x = u.sp.get x)
      ∧ ((∃ y, o ≤ y ∧ y < o + n ∧ regs y) → m.word (t.base + 0x1480) = u.ctl 0x1480 &&& 63
        ∧ m.word (t.base + 0x1490) = u.ctl 0x1490 &&& word (2 ^ 63 + 63)
        ∧ ∀ k : Fin 4, m.word (t.base + 0x14A8 + 8 * k.val) = u.ctl (0x14A8 + 8 * k.val) &&& word (2 ^ 62 - 1)))
    ∧ (∀ w : RootWait, t.root = some w → clear ∨ r.sup = true →
      w.base + 0x1200 < o + n → o < w.base + 0x1210 → ∃ m : Memory, stored = .next (s.finish r (s.withTile { u with sp := m }))
      ∧ ∀ x, w.base + 0x1200 ≤ x → x < w.base + 0x1210 → m.get x = 0xFF)
    ∧ (r.sup = false → ¬ clear →
      stored = .next (s.takeTrap s.cur r 0x06 (word (0x0FFFFFFFFE000000 + max o (t.base + 0x1480)))))

/-- R33, R242, R243, R135: what a byte of each kind of place lets a task do: the address form, then the windows, then the
footprint. In task mode the control block of the workspace is closed to stores. `none` passes; the causes are PERMISSION_FAULT
and FOOTPRINT_FAULT.
(That a returning atomic fails with FOOTPRINT_FAULT on every byte of the control block is R308 read over R33's table, log 32.) -/
def Obligations.PlaceRights : Prop :=
  ∀ (size : Nat) (t : Tile) (foot : List Foot) (consts : List Region) (va : Nat),
    let at_ (k : Kind) := placeFault k size t (placeFor k foot consts va)
    let win := 0x0FFFFFFFFE000000 ≤ va ∧ va < 0x0FFFFFFFFE180000
    let o := va - 0x0FFFFFFFFE000000
    let plain := va < 0x0FFFFFFFFE000000
    let sup := t.run.any (fun r => r.sup)
    let inFoot (k : FKind) := ∃ f ∈ foot, f.base ≤ va ∧ va < f.base + f.len ∧ f.kind = k ∧
      ∀ g ∈ foot, g.base ≤ va → va < g.base + g.len → g.kind = k
    let inConst := ∃ c ∈ consts, c.base ≤ va ∧ va < c.base + c.len
    let noFoot := ∀ f ∈ foot, ¬ (f.base ≤ va ∧ va < f.base + f.len)
    (2 ^ 60 ≤ va → ∀ k, at_ k = some 0x06)
    ∧ (0x0FFFFFFFFE180000 ≤ va → va < 0x0FFFFFFFFFFFE000 → ∀ k, at_ k = some 0x06)
    ∧ (win → size ≤ o → ∀ k, at_ k = some 0x06)
    ∧ (win → o < size → at_ .load = none ∧ at_ .konst = some 0x07
      ∧ (sup = false → t.base + 0x1480 ≤ o → o < t.base + 0x1800 →
        at_ .store = some 0x06 ∧ at_ .update = some 0x06 ∧ at_ .returning = some 0x06)
      ∧ (sup = true ∨ o < t.base + 0x1480 ∨ t.base + 0x1800 ≤ o → at_ .store = none ∧ at_ .update = none ∧ at_ .returning = none))
    ∧ (0x0FFFFFFFFFFFE000 ≤ va → va < 2 ^ 60 → at_ .load = none ∧ at_ .konst = some 0x07
      ∧ (∀ k ∈ [Kind.store, Kind.update], at_ k = (if va - 0x0FFFFFFFFFFFE000 < 0x100 then none else some 0x06))
      ∧ at_ .returning = some 0x07)
    ∧ (plain → inFoot .priv → at_ .load = none ∧ at_ .store = none ∧ at_ .update = none ∧ at_ .returning = none)
    ∧ (plain → inFoot .inp → at_ .load = none ∧ at_ .store = some 0x07 ∧ at_ .update = some 0x07)
    ∧ (plain → inFoot .out → at_ .load = some 0x07 ∧ at_ .store = none ∧ at_ .update = none ∧ at_ .returning = some 0x07)
    ∧ (plain → inFoot .inout → at_ .load = none ∧ at_ .store = none ∧ at_ .update = none ∧ at_ .returning = none)
    ∧ (plain → inConst → at_ .konst = none ∧ (noFoot → at_ .load = none ∧ at_ .store = some 0x07))
    ∧ (plain → ¬ inConst → at_ .konst = some 0x07 ∧ (noFoot → ∀ k, at_ k = some 0x07))

/-- R242, R244, R35, R265, R298, R300: what an element of each place reads: the tile's scratchpad, the job control block at its physical place,
the home of a page that is never in L1, the line when L1 holds it. Nothing changes by reading there. A line that L1 does not hold is
brought into it from its home, clean.
R300: an element of an INOUT place reads the gang's view: of its staged stores that cover a byte the last in key order, of none the
committed byte.
R242, R244, R265, R298: where an element of each place goes: the tile's scratchpad, the job control block, the home of a page
that is never in L1, the L1 line, which becomes dirty there, or an entry of the gang's commit buffer, home bytes unchanged.
(That loads and stores of the job control block pass L1 by is the model's reading, log 31.) -/
def Obligations.AccessPlaces : Prop :=
  (∀ (s : State) (r : Run), (s.tile s.cur).run = some r → s.barges = [] → ∀ (l : Lane),
      let t := s.tile s.cur
      let k := l.key (s.siteOf s.cur)
      let quiet (a : Nat) := s.memBad a l.n = false ∧ (∀ c ∈ s.pend, c.hits a l.n = false)
        ∧ (∀ e ∈ s.tiles, ∀ c ∈ e.2.slots, c.hits a l.n = false)
      (∀ o, l.place = .window o → t.spBad o l.n = false → r.sup = true ∨ o + l.n ≤ t.base + 0x1518 ∨ t.base + 0x1800 ≤ o →
        loadLane l s = .ok (t.sp.readBytes o l.n, s))
      ∧ (∀ o, l.place = .window o → t.spBad o l.n = false → r.sup = false → t.base + 0x1518 ≤ o → o + l.n ≤ t.base + 0x1800 →
        loadLane l s = .ok (List.replicate l.n 0, s))
      ∧ (∀ (o : Nat) (j : Job), l.place = .jcb o → s.job? r.job = some j → quiet (j.jcbpa + o) →
        loadLane l s = .ok (s.mem.readBytes (j.jcbpa + o) l.n, s))
      ∧ (∀ x : Xlat, l.place = .foot .priv ∨ l.place = .foot .inp ∨ l.place = .const → l.xl = some x →
        (x.nl1 = true → quiet k → loadLane l s = .ok (s.mem.readBytes k l.n, s))
        ∧ (x.nl1 = false → ∀ y : L1Line, findLine (k / 32) t.l1 = some y → y.poison = 0 →
          loadLane l s = .ok (leBytes l.n (y.data.toNat / 2 ^ (8 * (k % 32))), s))
        ∧ (x.nl1 = false → findLine (k / 32) t.l1 = none → s.pend = [] → (∀ e ∈ s.tiles, e.2.slots = []) →
          s.memBad (k / 32 * 32) 32 = false → k % 32 + l.n ≤ 32 → (s.waysOf s.cur (k / 32)).length < 8 ∨ (∀ y ∈ t.l1, y.dirty = 0) →
          ∃ (s' : State) (y : L1Line), loadLane l s = .ok (s.mem.readBytes k l.n, s') ∧ s'.mem = s.mem
            ∧ findLine (k / 32) (s'.tile s.cur).l1 = some y ∧ y.dirty = 0 ∧ y.resid = 0
            ∧ ∀ i, i < 32 → lineBytes y.data i 1 = [s.mem.get (k / 32 * 32 + i)]))
      ∧ (∀ (x : Xlat) (g : Gang), l.place = .foot .inout → l.xl = some x → s.runGang r = some g →
        let held := s.stageKey r.job x l.va
        (∀ (s' : State) (bs : List Byte), s.view g held l.n (x.key (s.siteOf s.cur) l.va) = (s', bs, false) → loadLane l s = .ok (bs, s'))
        ∧ (x.key (s.siteOf s.cur) l.va = held → keySite held = none → s.pend = [] → (∀ e ∈ s.tiles, e.2.slots = []) → s.memBad held l.n = false →
          (∀ e ∈ g.entries, e.hits held l.n = true → ∃ u mask data, e.eff = .store u mask data) →
          ∃ bs : List Byte, loadLane l s = .ok (bs, s) ∧ bs.length = l.n ∧ ∀ i, i < l.n →
            let covers (e : Entry) (u : Nat) (mask : BitVec 32) (data : BitVec 256) : Prop := e ∈ g.entries ∧ e.eff = .store u mask data
              ∧ u ≤ held + i ∧ held + i < u + 32 ∧ mask.getLsbD (held + i - u) = true
            ((∀ e u mask data, ¬ covers e u mask data) → bs[i]? = some (s.mem.get (held + i)))
            ∧ ∀ e u mask data, covers e u mask data → (∀ e' u' mask' data', covers e' u' mask' data' → e' = e ∨ Entry.lt e' e = true) →
              bs[i]? = some (data.extractLsb' (8 * (held + i - u)) 8))))
  ∧ (∀ (s : State) (r : Run), (s.tile s.cur).run = some r → s.barges = [] → s.pend = [] → (∀ e ∈ s.tiles, e.2.slots = []) →
      ∀ (l : Lane) (bs : List Byte), bs.length = l.n →
      let t := s.tile s.cur
      let k := l.key (s.siteOf s.cur)
      let written (a : Nat) := ∃ s' : State, storeLane l bs s = .ok ((), s') ∧ s'.tiles = s.tiles
        ∧ ∀ x, s'.mem.get x = if a ≤ x ∧ x < a + l.n then bs.getD (x - a) 0 else s.mem.get x
      (∀ o, l.place = .window o → storeLane l bs s = .ok ((), s.withTile (t.storeSp o bs)) ∧ (t.keptApart o l.n → t.storeSp o bs = t.putSp o bs))
      ∧ (∀ (o : Nat) (j : Job), l.place = .jcb o → s.job? r.job = some j → j.jcbpa + o < 2 ^ 52 → written (j.jcbpa + o))
      ∧ (∀ x : Xlat, l.place = .foot .priv → l.xl = some x → x.nl1 = true → k < 2 ^ 52 → written k)
      ∧ (∀ (x : Xlat) (y : L1Line), l.place = .foot .priv → l.xl = some x → x.nl1 = false → findLine (k / 32) t.l1 = some y →
        k % 32 + l.n ≤ 32 → ∃ (s' : State) (y' : L1Line), storeLane l bs s = .ok ((), s') ∧ s'.mem = s.mem
          ∧ findLine (k / 32) (s'.tile s.cur).l1 = some y' ∧ y'.resid = 0
          ∧ ∀ i, i < 32 → y'.dirty.getLsbD i = (y.dirty.getLsbD i || decide (k % 32 ≤ i ∧ i < k % 32 + l.n))
            ∧ lineBytes y'.data i 1 = if k % 32 ≤ i ∧ i < k % 32 + l.n then [bs.getD (i - k % 32) 0] else lineBytes y.data i 1)
      ∧ (∀ (x : Xlat) (j : Job) (g g' : Gang), let va := l.va
        l.place = .foot .out ∨ l.place = .foot .inout → l.xl = some x →
        s.job? r.job = some j → s.runGang r = some g →
        s.stage j g r.rcd.key (.store (s.stageKey r.job x va / 32 * 32) (maskOf (va % 32) l.n) (lineWith 0 (va % 32) bs)) (va / 32 * 32)
          (s.stagePlace r.job x va).1 (s.stagePlace r.job x va).2 (s.siteOf s.cur) [x] = .ok g' →
        storeLane l bs s = .ok ((), s.setGang r.job r.gid g')))

/-- R261 to R264, R95, R142: vld, vlds and vldg load an element for each enabled lane at the addresses of R261 and leave the
other lanes' bytes; streams bound to their registers are popped before and appended after.
R261 to R265, R95, R142: vst, vsts and vstx store the elements of v(C) of the enabled lanes in lane order at the addresses of
R261, and nothing else. -/
def Obligations.VectorAccess : Prop :=
  (∀ (s : State) (r : Run), s.Ready r → ∀ (p : Pred) (ty : Ty) (d : VReg) (a : WReg) (b : OpB) (o : Order),
      let n := 1024 / ty.bits
      let sz := ty.bits / 8
      let w := (s.tile s.cur).predWord p
      (∃ j, j < n ∧ w.getLsbD j = true) → 8 ≤ ty.bits →
      ∀ (reads : List VReg) (s1 : State), streamsBefore reads (some d) s = .ok ((), s1) → s1.Ready r → s1.cur = s.cur →
      let t := s1.tile s.cur
      let loads (i : Instr) (addr : Nat → Word) (o : Order) := ∀ (s1' s2 s3 s4 : State) (ls : List Lane) (bs : List (List Byte)),
        let es := ((List.range n).filter (fun j => w.getLsbD j))
        acquirePart o s1 = .ok ((), s1') →
        checkLanes .load (es.map (fun j => ((addr j).toNat, sz))) s1' = .ok (ls, s2) → loadLanes ls s2 = .ok (bs, s3) →
        bs.length = es.length → s3.cur = s.cur → s3.Ready r →
        ∃ v : VWord, (∀ j, j < n → w.getLsbD j = false → vElem ty.bits v j = vElem ty.bits ((s3.tile s.cur).v d) j)
          ∧ (∀ i (h : i < es.length), vElem ty.bits v es[i] = leVal (bs.getD i []) % 2 ^ ty.bits)
          ∧ (streamsAfter (some d) (s3.withTile ((s3.tile s.cur).setV d v)) = .ok ((), s4) → exec i s = .next (s.finish r s4))
      (reads = [] → (t.w a + t.opB b).toNat % sz = 0 →
        loads (.vld p ty o d a b) (fun j => t.w a + t.opB b + word (j * sz)) o)
      ∧ (reads = [] → (t.opB b).toNat % sz = 0 → (t.w a).toNat % sz = 0 →
        loads (.vlds p ty d a b) (fun j => t.w a + word j * t.opB b) .plain)
      ∧ (∀ x : VReg, reads = [x] → (t.w a).toNat % sz = 0 →
        loads (.vldg p ty d a x) (fun j => t.w a + BitVec.ofInt 64 (intOf ty.signed ty.bits (vElem ty.bits (t.v x) j)) * word sz) .plain))
  ∧ (∀ (s : State) (r : Run), s.Ready r → ∀ (p : Pred) (ty : Ty) (a : WReg) (b : OpB) (c : VReg) (o : Order),
      let n := 1024 / ty.bits
      let sz := ty.bits / 8
      let w := (s.tile s.cur).predWord p
      (∃ j, j < n ∧ w.getLsbD j = true) → 8 ≤ ty.bits →
      ∀ (reads : List VReg) (s1 : State), streamsBefore reads none s = .ok ((), s1) → s1.Ready r → s1.cur = s.cur →
      let t := s1.tile s.cur
      let stores (i : Instr) (addr : Nat → Word) (o : Order) := ∀ (s1' s2 s3 s4 : State) (ls : List Lane),
        let es := ((List.range n).filter (fun j => w.getLsbD j))
        releasePart o s1 = .ok ((), s1') → s1'.Ready r → s1'.cur = s.cur → (s1'.tile s.cur).v c = t.v c →
        checkLanes .store (es.map (fun j => ((addr j).toNat, sz))) s1' = .ok (ls, s2) →
        let xs := ls.zip (es.map (fun j => leBytes sz (vElem ty.bits (t.v c) j)))
        xs.forM (fun x => storeLane x.1 x.2) s2 = .ok ((), s3) →
        (wholeUnits xs).forM (fun x => storeLane x.1 x.2) s3 = .ok ((), s4) →
        exec i s = .next (s.finish r s4) ∧ (sz = 8 → wholeUnits xs = [])
          ∧ ∀ (l : Lane) (bs : List Byte), (l, bs) ∈ wholeUnits xs → l.n = 8 ∧ bs.length = 8 ∧ l.va % 8 = 0
            ∧ ∀ i, i < 8 → ∃ x ∈ xs, x.1.va ≤ l.va + i ∧ l.va + i < x.1.va + x.1.n ∧ bs[i]? = some (x.2.getD (l.va + i - x.1.va) 0)
      (reads = [c] → (t.w a + t.opB b).toNat % sz = 0 →
        stores (.vst p ty o a b c) (fun j => t.w a + t.opB b + word (j * sz)) o)
      ∧ (reads = [c] → (t.opB b).toNat % sz = 0 → (t.w a).toNat % sz = 0 →
        stores (.vsts p ty a b c) (fun j => t.w a + word j * t.opB b) .plain)
      ∧ (∀ x : VReg, reads = [x, c] → (t.w a).toNat % sz = 0 →
        stores (.vstx p ty a x c) (fun j => t.w a + BitVec.ofInt 64 (intOf ty.signed ty.bits (vElem ty.bits (t.v x) j)) * word sz) .plain))

/-- R269, R141, R142: sbind binds the generator of v28 to v31 with base, stride, count and direction; its limits are traps; sunbind
clears BOUND alone.
R142: a vector instruction that reads a register bound for reading first loads one element of 128 bytes at NEXT into it, and
NEXT, the count and BOUND move on; one that writes a register bound for writing then appends its 1024 bits at NEXT, and the same
three move on, an operand that names it reading the value it has before; reading one bound for writing that it does not write, or
writing one bound for reading, is illegal; registers that are not bound are left alone.
(That NEXT plus a stride is taken modulo 2^60 is the model's reading, log 25.) -/
def Obligations.Streams : Prop :=
  (∀ (s : State) (r : Run), s.Ready r → ∀ (p : Pred), (s.tile s.cur).enabled p = true → ∀ (d : VReg) (write : Bool) (a b c : WReg),
      let t := s.tile s.cur
      let base := t.w a
      let stride := t.w b
      let count := t.w c
      let k := d.val - 28
      let illegal := s.takeTrap s.cur r 0x01 r.pc
      (28 ≤ d.val → base.toNat % 128 = 0 → stride.toNat % 128 = 0 → count ≠ 0 → base.toNat < 2 ^ 60 →
        exec (.sbind p write d a b c) s = .next (s.finish r (s.withTile (((t.setCtl (0x14A8 + 8 * k)
          (word (base.toNat + 2 ^ 60 + (if write then 2 ^ 61 else 0)))).setCtl (0x14C8 + 8 * k) stride).setCtl (0x14E8 + 8 * k) count))))
      ∧ (28 ≤ d.val → base.toNat % 128 ≠ 0 → exec (.sbind p write d a b c) s = .next (s.takeTrap s.cur r 0x08 base))
      ∧ (28 ≤ d.val → base.toNat % 128 = 0 → stride.toNat % 128 ≠ 0 →
        exec (.sbind p write d a b c) s = .next (s.takeTrap s.cur r 0x08 stride))
      ∧ (28 ≤ d.val → base.toNat % 128 = 0 → stride.toNat % 128 = 0 → count = 0 ∨ 2 ^ 60 ≤ base.toNat →
        exec (.sbind p write d a b c) s = .next illegal)
      ∧ (d.val < 28 → exec (.sbind p write d a b c) s = .next illegal ∧ exec (.sunbind p d) s = .next illegal)
      ∧ (28 ≤ d.val → exec (.sunbind p d) s = .next (s.finish r (s.withTile (t.setCtl (0x14A8 + 8 * k)
          (word ((t.ctl (0x14A8 + 8 * k)).toNat % 2 ^ 60 + (if (t.ctl (0x14A8 + 8 * k)).getLsbD 61 then 2 ^ 61 else 0))))))))
  ∧ (∀ (s : State) (r : Run), s.Ready r → ∀ (k : Fin 4) (reads : List VReg) (dest : Option VReg),
      let t := s.tile s.cur
      let v : VReg := ⟨28 + k.val, by omega⟩
      let cfg := t.ctl (0x14A8 + 8 * k.val)
      let next := cfg.toNat % 2 ^ 60
      let moved (s2 s3 : State) : Prop :=
        (s3.tile s.cur).ctl (0x14E8 + 8 * k.val) = (s2.tile s.cur).ctl (0x14E8 + 8 * k.val) - 1
        ∧ ((s3.tile s.cur).ctl (0x14A8 + 8 * k.val)).getLsbD 60 = decide ((s2.tile s.cur).ctl (0x14E8 + 8 * k.val) ≠ 1)
        ∧ ((s3.tile s.cur).ctl (0x14A8 + 8 * k.val)).toNat % 2 ^ 60
          = (((s2.tile s.cur).ctl (0x14A8 + 8 * k.val)).toNat % 2 ^ 60 + ((s2.tile s.cur).ctl (0x14C8 + 8 * k.val)).toNat) % 2 ^ 60
        ∧ ((s3.tile s.cur).ctl (0x14A8 + 8 * k.val)).getLsbD 61 = ((s2.tile s.cur).ctl (0x14A8 + 8 * k.val)).getLsbD 61
      (cfg.getLsbD 60 = false → streamBefore reads dest k s = .ok ((), s) ∧ streamAfter dest k s = .ok ((), s))
      ∧ (v ∉ reads → dest ≠ some v → streamBefore reads dest k s = .ok ((), s) ∧ streamAfter dest k s = .ok ((), s))
      ∧ (cfg.getLsbD 60 = true → cfg.getLsbD 61 = false → dest = some v →
        streamBefore reads dest k s = .error { why := .trap 0x01 r.pc })
      ∧ (cfg.getLsbD 60 = true → cfg.getLsbD 61 = true → v ∈ reads → dest ≠ some v →
        streamBefore reads dest k s = .error { why := .trap 0x01 r.pc })
      ∧ (cfg.getLsbD 60 = true → cfg.getLsbD 61 = false → v ∈ reads → dest ≠ some v →
        ∀ (ls : List Lane) (s1 s2 : State) (bs : List (List Byte)),
        checkLanes .load [(next, 32), (next + 32, 32), (next + 64, 32), (next + 96, 32)] s = .ok (ls, s1) →
        loadLanes ls s1 = .ok (bs, s2) → s2.cur = s.cur →
        ∃ s3 : State, streamBefore reads dest k s = .ok ((), s3) ∧ s3.mem = s2.mem
          ∧ (s3.tile s.cur).v v = BitVec.ofNat 1024 (leVal bs.flatten)
          ∧ moved s2 s3)
      ∧ (cfg.getLsbD 60 = true → cfg.getLsbD 61 = true → dest = some v →
        streamBefore reads dest k s = .ok ((), s) ∧ ∀ (ls : List Lane) (s1 s2 : State),
        checkLanes .store [(next, 32), (next + 32, 32), (next + 64, 32), (next + 96, 32)] s = .ok (ls, s1) →
        (ls.zipIdx).forM (fun e => storeLane e.1 (leBytes 32 ((t.v v).toNat / 2 ^ (256 * e.2)))) s1 = .ok ((), s2) → s2.cur = s.cur →
        ∃ s3 : State, streamAfter dest k s = .ok ((), s3) ∧ s3.mem = s2.mem ∧ (s3.tile s.cur).v v = (s2.tile s.cur).v v ∧ moved s2 s3))

/-- R245, R270 to R272: a fence carries out the maintenance of its halves; cmaint of no bytes does nothing, of a range whose bytes
pass and translate it acts on the lines and slots that hold them; icinv drops the code lines of its range.
R245, R270: what the maintenance leaves: a release at gang scope or wider leaves no dirty line in the tile's L1, an acquire no
line at all; inval at L1 drops the lines of the range and writes nothing.
(That an acquire leaves no L1 line at all, dirty ones cleaned and dropped, is the model's reading, log 19.) -/
def Obligations.Maintenance : Prop :=
  (∀ (s : State) (r : Run), s.Ready r → ∀ (p : Pred), (s.tile s.cur).enabled p = true → ∀ (a : WReg) (b : OpB),
      let t := s.tile s.cur
      let n := s.cur
      (∀ sc : Scope, exec (.fence p (.rel sc)) s = .next (s.finish r (s.release n sc))
        ∧ exec (.fence p (.acq sc)) s = .next (s.finish r (s.acquire n sc))
        ∧ exec (.fence p (.acqRel sc)) s = .next (s.finish r ((s.release n sc).acquire (s.release n sc).cur sc)))
      ∧ (∀ (op : CmOp) (level : CmLevel), t.opB b = 0 → exec (.cmaint p op level a b) s = .next (s.finish r s))
      ∧ (∀ (op : CmOp) (level : CmLevel) (s1 : State) (ls : List Lane) (ps : List (Nat × Nat)),
        let ks : List Kind := if op = .inval ∧ level = .l1 then [.load, .store] else [.load]
        t.opB b ≠ 0 → rangeFault ks (s.footOf r) (s.constsOf r) (t.w a).toNat (t.opB b).toNat = none →
        xlateLanes n r.job .load s ((walkedPieces (s.footOf r) (s.constsOf r) (t.w a).toNat (t.opB b).toNat).map
          (fun q => (⟨q.1, q.2, .const, none⟩ : Lane))) = (s1, ls, ps, none) → s1.cur = n →
        exec (.cmaint p op level a b) s = .next (s.finish r (s1.maintain n op level (ls.map (fun l => (l.key (s1.siteOf n), l.n))))))
      ∧ ∃ gone : Nat → Bool, exec (.icinv p a b) s = .next (s.finish r (s.withTile { t with
          icache := t.icache.filter (fun x => !gone x.key)
          fbuf := t.fbuf.filter (fun x => !gone x.key) }))
        ∧ ∀ key, gone key = true ↔ ∃ q ∈ s.codePieces n r (t.w a).toNat (t.opB b).toNat, q.1 < 64 * key + 64 ∧ 64 * key < q.1 + q.2)
  ∧ (∀ (s : State) (n : Nat) (sc : Scope), sc ≠ .tile →
      ((s.acquire n sc).tile n).l1 = []
      ∧ ((s.tile n).l1.Pairwise (fun x y => x.key ≠ y.key) → ∀ l ∈ ((s.release n sc).tile n).l1, l.dirty = 0)
      ∧ s.release n .tile = s ∧ s.acquire n .tile = s
      ∧ (∀ ps : List (Nat × Nat), (s.tile n).slots = [] →
        (s.maintain n .inval .l1 ps).mem = s.mem
        ∧ ∀ l, l ∈ ((s.maintain n .inval .l1 ps).tile n).l1 ↔ l ∈ (s.tile n).l1 ∧ ¬ ∃ p ∈ ps, p.1 < 32 * l.key + 32 ∧ 32 * l.key < p.1 + p.2))

/-! Atomics, reductions, barriers, tickets (groups 0x30 to 0x34). -/

/-- R308, R310, R266, R311: an aligned atomic or reduction whose byte checks pass is performed at its place after its release;
amof then puts the old value into w(D) after its acquire, sign-extended for signed types; a misaligned one traps. Outside DSM.
R311: red of a vector reduces, for each enabled lane in order, its element into the one at EA + lane × size; EA is a multiple of 128, or
the instruction traps with it; with no lane enabled it does nothing. -/
def Obligations.AtomicsAndReductions : Prop :=
  (∀ (s : State) (r : Run), s.Ready r → ∀ (p : Pred), (s.tile s.cur).enabled p = true →
    (∀ g, s.runGang r = some g → g.desc.dsm = false ∧ ∀ x ∈ g.tasks, x.got = none) →
    ∀ (op : AmoOp) (rop : RedOp) (ty : Ty) (o : Order) (m : Rnd) (d a b c : WReg),
    let t := s.tile s.cur
    let ea := t.w a
    let n := ty.bits / 8
    let v := (t.w c).toNat % 2 ^ ty.bits
    let cmp := if op = .cas then (t.w b).toNat % 2 ^ ty.bits else 0
    (ea.toNat % n ≠ 0 →
      let out := s.takeTrap s.cur r 0x08 ea
      exec (.amo p op ty o a c) s = .next out ∧ exec (.amof p op ty o d a b c) s = .next out ∧ exec (.red p rop ty m a (.w c)) s = .next out)
    ∧ (ea.toNat % n = 0 → ∀ (l : Lane) (s1 s2 s3 : State) (old : Nat),
      checkLanes .update [(ea.toNat, n)] s = .ok ([l], s1) →
      (releasePart o s1 = .ok ((), s2) → atomicLane l op ty v 0 false s2 = .ok (old, s3) →
        exec (.amo p op ty o a c) s = .next (s.finish r s3))
      ∧ (redLane l rop ty m v s1 = .ok ((), s2) → exec (.red p rop ty m a (.w c)) s = .next (s.finish r s2)))
    ∧ (ea.toNat % n = 0 → ∀ (l : Lane) (s1 s2 s3 s4 : State) (old : Nat),
      checkLanes .returning [(ea.toNat, n)] s = .ok ([l], s1) → releasePart o s1 = .ok ((), s2) →
      atomicLane l op ty v cmp true s2 = .ok (old, s3) →
      (s3.tile s3.cur).run = some r → (∀ g, s3.runGang r = some g → g.meas = none) → acquirePart o s3 = .ok ((), s4) →
      ∃ w : Word, (ty.isInt = true → ty.signed = true → old < 2 ^ (ty.bits - 1) → w = word old)
        ∧ (ty.isInt = true → ty.signed = true → 2 ^ (ty.bits - 1) ≤ old → old < 2 ^ ty.bits → w = word (old + 2 ^ 64 - 2 ^ ty.bits))
        ∧ (ty.signed = false → old < 2 ^ ty.bits → w = word old)
        ∧ exec (.amof p op ty o d a b c) s = .next (s.finish r (s4.setTile s4.cur ((s4.tile s4.cur).setW d w)))))
  ∧ (∀ (s : State) (r : Run), s.Ready r → ∀ (p : Pred) (rop : RedOp) (ty : Ty) (m : Rnd) (a : WReg) (x : VReg),
    let n := 1024 / ty.bits
    let sz := ty.bits / 8
    let w := (s.tile s.cur).predWord p
    let es := (List.range n).filter (fun j => w.getLsbD j)
    (es = [] → exec (.red p rop ty m a (.v x)) s = .next (s.finish r s))
    ∧ (es ≠ [] → ∀ s1 : State, streamsBefore [x] none s = .ok ((), s1) → s1.Ready r → s1.cur = s.cur →
      let t := s1.tile s.cur
      let ea := t.w a
      (ea.toNat % 128 ≠ 0 → exec (.red p rop ty m a (.v x)) s = .next (s.takeTrap s.cur r 0x08 ea))
      ∧ (ea.toNat % 128 = 0 → ∀ (ls : List Lane) (s2 s3 : State),
        checkLanes .update (es.map (fun j => (ea.toNat + j * sz, sz))) s1 = .ok (ls, s2) →
        (ls.zip es).forM (fun e => redLane e.1 rop ty m (vElem ty.bits (t.v x) e.2)) s2 = .ok ((), s3) →
        exec (.red p rop ty m a (.v x)) s = .next (s.finish r s3))))

/-- R308, R310, R313: in the scratchpad window an atomic reads and writes the tile's bytes at once and a reduction is one step; at
the home of a page that is never in L1 an atomic replaces the value there and leaves every other byte; the superstep of the
gang is no longer restorable (R332).
R310, R312: the value of one atomic or reduction step on integers of a type. -/
def Obligations.AtomicEffects : Prop :=
  (∀ (s : State) (r : Run), (s.tile s.cur).run = some r → s.barges = [] → s.pend = [] → (∀ e ∈ s.tiles, e.2.slots = []) →
      ∀ (op : AmoOp) (rop : RedOp) (ty : Ty) (m : Rnd) (v c : Nat) (ret : Bool) (l : Lane),
      let t := s.tile s.cur
      let n := ty.bits / 8
      let k := l.key (s.siteOf s.cur)
      (∀ o, l.place = .window o → t.spBad o n = false → t.keptApart o n →
        let old := t.sp.readLE o n
        atomicLane l op ty v c ret s = .ok (old, match atomNew op ty old v c with
          | some x => s.withTile (t.putSp o (leBytes n x))
          | none => s.withTile t)
        ∧ redLane l rop ty m v s = .ok ((), s.withTile (t.putSp o (leBytes n (redStep rop ty m old v)))))
      ∧ (∀ (x : Xlat) (g : Gang), l.place = .foot .priv → l.xl = some x → x.nl1 = true → k < 2 ^ 52 → findLine (k / 32) t.l1 = none →
        s.memBad k n = false → s.runGang r = some g →
        let old := s.mem.readLE k n
        ∃ s' : State, atomicLane l op ty v c ret s = .ok (old, s')
          ∧ (∀ a, s'.mem.get a = match atomNew op ty old v c with
            | some x => if k ≤ a ∧ a < k + n then (leBytes n x).getD (a - k) 0 else s.mem.get a
            | none => s.mem.get a)
          ∧ ∃ g', s'.runGang r = some g' ∧ g'.norestore = true))
  ∧ (∀ (ty : Ty) (m : Rnd) (old v c : Nat), ty.isInt = true → old < 2 ^ ty.bits → v < 2 ^ ty.bits →
      let val (x : Nat) : Int := if ty.signed ∧ 2 ^ (ty.bits - 1) ≤ x then (x : Int) - 2 ^ ty.bits else x
      atomNew .add ty old v c = some ((old + v) % 2 ^ ty.bits)
      ∧ atomNew .and ty old v c = some (old &&& v) ∧ atomNew .or ty old v c = some (old ||| v) ∧ atomNew .xor ty old v c = some (old ^^^ v)
      ∧ atomNew .swap ty old v c = some v
      ∧ (old = c → atomNew .cas ty old v c = some v) ∧ (old ≠ c → atomNew .cas ty old v c = none)
      ∧ (∃ x, atomNew .min ty old v c = some x ∧ (x = old ∨ x = v) ∧ val x ≤ val old ∧ val x ≤ val v ∧ redStep .min ty m old v = x)
      ∧ (∃ x, atomNew .max ty old v c = some x ∧ (x = old ∨ x = v) ∧ val old ≤ val x ∧ val v ≤ val x ∧ redStep .max ty m old v = x)
      ∧ redStep .add ty m old v = (old + v) % 2 ^ ty.bits)

/-- R312, R314: contributions of one gang meet at the home in key order, whatever the order in which they reached it: two lists of
the same pending contributions leave the same memory when an access combines them. -/
def Obligations.ReductionOrderFree : Prop :=
  ∀ (s : State) (p q : List Contrib) (job gang a n : Nat), p.Perm q → (∀ e ∈ s.tiles, e.2.slots = []) →
    (∀ c ∈ p, c.job = job ∧ c.gang = gang) → p.Pairwise (fun x y => (x.key, x.ord) ≠ (y.key, y.ord)) →
    ({ s with pend := p }.combine a n).mem = ({ s with pend := q }.combine a n).mem
    ∧ (∀ c ∈ ({ s with pend := p }.combine a n).pend, c.hits a n = false)

/-- R316, R245: arrive releases and marks the root arrived; wait and the second issue of sstep go on once the generation is
complete, the barrier's generation one further, after an acquire; until then they stall; misuse is BARRIER_MISUSE with the id.
Outside DSM. -/
def Obligations.BarrierInstructions : Prop :=
  ∀ (s : State) (r : Run), s.Ready r → ∀ (p : Pred), (s.tile s.cur).enabled p = true → ∀ (k : Fin 8),
    let n := s.cur
    let misuse := s.takeTrap n r 0x0D (word k.val)
    (s.runGang r = none → exec (.arrive p k) s = .next misuse ∧ exec (.wait p k) s = .next misuse ∧ exec (.sstep p k) s = .next misuse)
    ∧ ∀ g : Gang, s.runGang r = some g → g.desc.dsm = false →
      let b := g.bar r.rcd.rootIndex k
      let member := g.desc.cls = 2 ∧ r.rcd.depth = r.rcd.rootw ∧ g.desc.bars.getLsbD k.val = true
      let complete := g.gens.getD k.val 0 ≠ b.gen
      let past := (s.setGang r.job r.gid ((g.setBar { b with gen := b.gen + 1, arr := false, byStep := false }).mapTask r.taskAddr
        (fun x => { x with blocked := false, waits := none }))).acquire n .gang
      (¬ member → exec (.arrive p k) s = .next misuse ∧ exec (.wait p k) s = .next misuse ∧ exec (.sstep p k) s = .next misuse)
      ∧ (member → b.arr = true → exec (.arrive p k) s = .next misuse)
      ∧ (member → b.arr = false → exec (.wait p k) s = .next misuse)
      ∧ (member → b.arr = true → b.byStep = false → exec (.sstep p k) s = .next misuse)
      ∧ (member → b.arr = false → exec (.arrive p k) s = .next (s.finish r
        ((s.release n .gang).setGang r.job r.gid (g.setBar { b with arr := true, byStep := false }))))
      ∧ (member → b.arr = true → complete → exec (.wait p k) s = .next (s.finish r past)
        ∧ (b.byStep = true → exec (.sstep p k) s = .next (s.finish r past)))
      ∧ (member → b.arr = true → ¬ complete → exec (.wait p k) s = .next (s.noteStall n (.barrier b.k))
        ∧ (b.byStep = true → exec (.sstep p k) s = .next (s.noteStall n (.barrier b.k))))
      ∧ (member → b.arr = false → ¬ complete → s.requestOpen r = false → s.commandOpen r = false →
        exec (.sstep p k) s = .next (((s.release n .gang).setGang r.job r.gid (g.setBar { b with arr := true, byStep := true })).noteStall
          n (.barrier b.k)))

/-- R315, R317: a generation completes when every root has arrived at it; the superstep closes only when every root came by sstep,
its open entries then sealed as one batch and every batch free to apply. -/
def Obligations.GenerationCompletes : Prop :=
  ∀ (s : State) (job gang : Nat) (k : Fin 8) (g : Gang), s.gang? job gang = some g → k.val < g.gens.length →
    let due := g.live = true ∧ g.out = false ∧ g.allArrived k = true
    let bySstep := ∀ i, i < g.desc.ntask → (g.bar i k).byStep = true
    (¬ due → exec (.barrierGenerationComplete job gang k) s = .next s)
    ∧ (due → ∃ (s' : State) (g' : Gang), exec (.barrierGenerationComplete job gang k) s = .next s' ∧ s'.gang? job gang = some g'
      ∧ g'.gens.getD k.val 0 = g.gens.getD k.val 0 + 1 ∧ (∀ i, i ≠ k.val → g'.gens.getD i 0 = g.gens.getD i 0)
      ∧ s'.mem = s.mem ∧ g'.bars = g.bars
      ∧ (¬ bySstep → g'.step = g.step ∧ g'.entries = g.entries ∧ g'.batches = g.batches ∧ g'.journals = g.journals)
      ∧ (bySstep → g'.step = g.step + 1 ∧ (∀ e ∈ g'.entries, e.batch ≠ none) ∧ (∀ x ∈ g'.batches, x.held = false)))

/-- R318, R319, R74: tcommit seals the task's open entries as one batch, held while the gang journals, and waits for its requests;
with WAIT it goes on, after an acquire, once the batch has applied and the gang is its stream's head; trd reads HEAD or TAIL; thead reads whether the gang holds HEAD, and with WAIT
stalls until it does; tcommit and thead are illegal in the border context. -/
def Obligations.CommitAndTickets : Prop :=
  ∀ (s : State) (r : Run), s.Ready r → ∀ (p : Pred), (s.tile s.cur).enabled p = true → ∀ (d : WReg) (sn : Fin 16) (j : Job),
    s.job? r.job = some j →
    let t := s.tile s.cur
    let st := j.stream sn.val
    let put (v : Word) := s.finish r (s.withTile (t.setW d v))
    exec (.trd p d sn false) s = .next (put (if st.opened then word st.head else 0))
    ∧ exec (.trd p d sn true) s = .next (put (if st.opened then word st.tail else 0))
    ∧ (r.rcd.handler = true → ∀ w, exec (.tcommit p w) s = .next (s.takeTrap s.cur r 0x01 r.pc)
      ∧ exec (.thead p d w) s = .next (s.takeTrap s.cur r 0x01 r.pc))
    ∧ ∀ g : Gang, s.runGang r = some g →
      let isHead := (j.stream g.stream).opened = true ∧ (j.stream g.stream).head = g.ticket
      let sealed := g.seal g.journalsOn (fun e => decide (e.key = r.rcd.key))
      let ended := ∀ b ∈ g.batches, ∃ e ∈ g.entries, e.batch = some b.id
      exec (.thead p d false) s = .next (put (if isHead then 1 else 0))
      ∧ (isHead → exec (.thead p d true) s = .next (put 1))
      ∧ (¬ isHead → exec (.thead p d true) s = .next (s.noteStall s.cur .head))
      ∧ (s.requestOpen r = true → exec (.tcommit p false) s = .next (s.noteStall s.cur .barge))
      ∧ (s.requestOpen r = false → exec (.tcommit p false) s = .next (s.finish r (s.setGang r.job r.gid sealed)))
      ∧ (g.journalsOn = true ∨ g.desc.digest = 2 → exec (.tcommit p true) s = .next (s.takeTrap s.cur r 0x01 r.pc))
      ∧ (g.journalsOn = false → g.desc.digest ≠ 2 →
        (s.requestOpen r = true → exec (.tcommit p true) s = .next (s.noteStall s.cur .barge))
        ∧ (s.requestOpen r = false → isHead → (∀ e ∈ g.entries, e.key ≠ r.rcd.key) → ended →
          exec (.tcommit p true) s = .next (s.finish r ((s.setGang r.job r.gid sealed).acquire s.cur .package)))
        ∧ (s.requestOpen r = false → (¬ isHead ∨ (∃ e ∈ g.entries, e.key = r.rcd.key) ∨ ¬ ended) →
          exec (.tcommit p true) s = .next ((s.setGang r.job r.gid sealed).noteStall s.cur .commit)))

/-! Tasks (groups 0x38, 0x39, done and yield). -/

/-- R167, R13, R22, R25: fork and spawn create a child whose record is that of R167, known to its gang; w(D) is the child's number,
NEXT is one more, JC one more with JOIN; fork puts it at the head of the chosen deque, spawn at the tail of the ready queue. What
breaks a limit is illegal, a frame outside PRIV a footprint fault, a full queue a stall; records of the pending list go into the
queue before a spawn's (R17). -/
def Obligations.TaskCreation : Prop :=
  ∀ (s : State) (r : Run), s.Ready r → ∀ (p : Pred), (s.tile s.cur).enabled p = true →
    ∀ (j : Job) (g : Gang), s.job? r.job = some j → s.runGang r = some g →
    ∀ (d a b : WReg) (join : Bool) (live : BitVec 10) (stage : BitVec 16),
    let t := s.tile s.cur
    let cp := t.w a
    let fp := t.w b
    let legal := live.toNat ≤ 688 ∧ r.rcd.next ≠ 16 ∧ r.rcd.depth ≠ 32 ∧ stage.toNat < g.desc.nstage ∧ cpOk cp = true ∧ fpOk fp = true
    let inPriv := ∃ f ∈ g.foot, f.kind = .priv ∧ f.base ≤ fp.toNat ∧ fp.toNat + 0x1800 ≤ f.base + f.len
    let c : Record := { cp := cp, fp := fp, jc := 0, live := BitVec.ofNat 16 live.toNat, stage := stage
                        lin := r.rcd.lin ||| BitVec.ofNat 128 (r.rcd.next % 16 * 2 ^ (128 - 4 * (r.rcd.depth + 1)))
                        gang := r.rcd.gang
                        flags := mkFlags (r.rcd.depth + 1) 0 r.rcd.rootw false false
                        parent := if join then word (r.rcd.fp.toNat + 0x17C0) else 0
                        seq := 0 }
    let both (x : Host.Outcome State Fault Refusal) := exec (.fork p d a b join live stage) s = x ∧ exec (.spawn p d a b join live stage) s = x
    let made (g : Gang) (i : Instr) (q : State → Prop) := ∃ s' : State, exec i s = .next (s.finish r s') ∧ q s'
      ∧ (s'.tile s.cur).w d = word r.rcd.next
      ∧ (s'.tile s.cur).run = some { r with rcd := { r.rcd.setNext (r.rcd.next + 1) with jc := if join then r.rcd.jc + 1 else r.rcd.jc } }
      ∧ ∃ g', s'.runGang r = some g' ∧ g'.tasks = g.tasks ++ [{ key := c.key, addr := c.fp.toNat + 0x17C0, ended := g.desc.dsm }]
    (¬ legal → both (.next (s.takeTrap s.cur r 0x01 r.pc)))
    ∧ (legal → ¬ inPriv → both (.next (s.takeTrap s.cur r 0x07 fp)))
    ∧ (legal → inPriv → ∀ j1 : Job, (s.settleReady r.job).job? r.job = some j1 →
      let room := j1.pending = [] ∧ j1.ready.length < j1.readyQN
      (¬ room → exec (.spawn p d a b join live stage) s = .next (s.noteStall s.cur .spawnFull))
      ∧ (room → r.rcd.handler = false → (s.settleReady r.job).Ready r → (s.settleReady r.job).cur = s.cur →
        ∀ g1 : Gang, (s.settleReady r.job).runGang r = some g1 →
        made g1 (.spawn p d a b join live stage) (fun s' => ∃ j', s'.job? r.job = some j' ∧ j'.ready = j1.ready ++ [c])))
    ∧ (legal → inPriv → j.readyQN ≤ j.ready.length → exec (.spawn p d a b join live stage) s = .next (s.noteStall s.cur .spawnFull))
    ∧ (legal → inPriv → j.ready.length < j.readyQN → j.pending = [] → r.rcd.handler = false →
      made g (.spawn p d a b join live stage) (fun s' => ∃ j', s'.job? r.job = some j' ∧ j'.ready = j.ready ++ [c]))
    ∧ (legal → inPriv → r.rcd.handler = false →
      let k := s.placeTile s.cur r.job (some g) stage
      (s.dequeRoom r.job k = true → made g (.fork p d a b join live stage) (fun s' => (s'.tile k).deque = c :: (s.tile k).deque))
      ∧ (s.dequeRoom r.job k = false → exec (.fork p d a b join live stage) s = .next (s.noteStall s.cur .spawnFull)))

/-- R158 to R160, R20, R168 to R170, R285: join goes on after an acquire when JC is zero and else suspends the record; suspend suspends it
until a cycle; done waits for the task's operations, requests and commands, then releases its accesses, decrements the JC of the
record at PARENT if there is one, ends the task, and retires the gang with its last task; in the border context it frees the
upcall's frame; yield continues when the tile can take nothing else, and otherwise hands the tile to the record offered, its own
going to the tail of the deque; an offered record that fails its checks is gone (R14, R15). A task that leaves its scratchpad waits
until no barge request uses it; those whose fault awaits a reply fail (R285). Under DSM join and suspend end the
task's part of the quantum, and done owes its decrement until the close (R53, R54). The decrement acts on a parent that runs, that
is queued or that lies in memory; at zero a suspended join is awake, and at JC = 0 it changes no JC and raises an error (R20, R14).
The retained DSM count (log 93), a record's bytes read where it lies (log 30), the JC that outlives its task (log 60) and the error,
with nothing decremented, where the parent's CHK is wrong (log 106) are the model's. -/
def Obligations.TaskEndsAndWaits : Prop :=
  (∀ (s : State) (r : Run), s.Ready r → ∀ (p : Pred), (s.tile s.cur).enabled p = true →
    ∀ (a : WReg) (live : BitVec 10), live.toNat ≤ 688 →
    let t := s.tile s.cur
    let dsm : Bool := (s.runGang r).any (fun g => g.desc.dsm)
    let mark (f : TaskInfo → TaskInfo) (u : State) := match u.runGang r with
      | some g => u.setGang r.job r.gid (g.mapTask r.taskAddr f)
      | none => u
    let joining : Bool := ((s.runGang r).bind (fun g => g.task? r.taskAddr)).any (fun x => x.joining)
    let stays := s.isResident r.job r.rcd
    let sf := if stays = true then s else s.failFrozen s.cur
    let counted := sf.countRetired s.cur sf.latched
    let kept := if dsm then mark (fun x => { x with qkept := some ((counted.tile s.cur).ctl cQCOUNT).toNat }) counted else counted
    let rcd := r.written (nextPc r.pc) live.toNat false
    let atFrame := t.mq = [] ∧ (stays = true ∨ s.scratchBusy s.cur = false) ∧ t.spBad t.base (8 * live.toNat) = false ∧ (∀ j, s.job? r.job = some j → r.taskAddr ∉ j.blocked)
    (rcd.cp = nextPc r.pc ∧ rcd.live = BitVec.ofNat 16 live.toNat ∧ rcd.seq = r.rcd.seq + 1 ∧ rcd.jc = r.rcd.jc)
    ∧ (dsm = true → joining = false →
      exec (.join p live) s = .next ((mark (fun x => { x with ended := true, joining := true }) s).noteStall s.cur .taskEnd))
    ∧ (dsm = false ∨ joining = true → r.rcd.jc = 0 →
      exec (.join p live) s = .next (s.finish r ((mark (fun x => { x with joining := false }) s).acquire s.cur .gang)))
    ∧ (∀ s1 : State, atFrame → kept.writeBack s.cur r.job rcd = .ok s1 → s1.cur = s.cur → (s1.tile s1.cur).run = some r →
      (s1.runGang r).any (fun g => g.desc.dsm) = dsm →
      let left (why : SuspWhy) :=
        (if dsm then mark (fun x => { x with ended := true, blocked := true, joining := false }) s1 else s1).leaveSuspended s.cur r.job rcd why
      (dsm = false ∨ joining = true → r.rcd.jc ≠ 0 → exec (.join p live) s = .next (left .join))
      ∧ (let u := left (.until (t.w a).toNat)
        exec (.suspend p a live) s = .next (if (t.w a).toNat ≤ u.ccy.toNat then u.wake r.job r.taskAddr false else u)))
    ∧ (t.mq = [] → (∀ j, s.job? r.job = some j → r.taskAddr ∉ j.blocked) → stays = false → s.scratchBusy s.cur = true →
      let waits : Host.Outcome State Fault Refusal := .next (s.noteStall s.cur .barge)
      exec (.suspend p a live) s = waits ∧ (dsm = false ∨ joining = true → r.rcd.jc ≠ 0 → exec (.join p live) s = waits)
      ∧ (((s.vacate s.cur r.job rcd).offer s.cur r.job).isSome = true → exec (.yield p live) s = waits))
    ∧ ((s.vacate s.cur r.job rcd).offer s.cur r.job = none → t.mq = [] → exec (.yield p live) s = .next (s.finish r s))
    ∧ (∀ (r1 : Record) (s1 s2 : State), atFrame → ((s.vacate s.cur r.job rcd).offer s.cur r.job).isSome = true →
      kept.writeBack s.cur r.job rcd = .ok s1 → s1.cur = s.cur → (s1.vacate s.cur r.job rcd).offer s.cur r.job = some (r1, s2) →
      (∀ s3 : State, s2.liftRecord r.job s.cur r1 = (s3, none) → exec (.yield p live) s = .next (s3.pushDeque s.cur rcd false))
      ∧ ∀ (r2 : Record) (s3 s4 : State), s2.liftRecord r.job s.cur r1 = (s3, some r2) → s3.frameBad s.cur r.job r2 = false →
        s3.bringIn s.cur r.job r2 = .ok s4 → exec (.yield p live) s = .next ((s4.pushDeque s.cur rcd false).settleReady r.job))
    ∧ (t.mq ≠ [] → exec (.yield p live) s = .next (s.noteStall s.cur .matrixWait) ∧ exec (.done p) s = .next (s.noteStall s.cur .matrixWait))
    ∧ (t.mq = [] → s.requestOpen r = true → exec (.done p) s = .next (s.noteStall s.cur .barge))
    ∧ (t.mq = [] → s.requestOpen r = false → s.commandOpen r = true → exec (.done p) s = .next (s.noteStall s.cur .matrixWait))
    ∧ (t.mq = [] → s.requestOpen r = false → s.commandOpen r = false →
      let s0 := s.release s.cur .gang
      let parent := r.rcd.parent.toNat
      let owed : Option Nat := if dsm = true ∧ r.rcd.parent ≠ 0 then some parent else none
      let leaves (u : State) :=
        let v := (u.countRetired u.cur u.latched).freeTile u.cur
        if r.rcd.handler = true then
          match v.job? r.job with
          | some j => (v.setJob r.job (j.freeUpcall r.taskAddr)).frameFreed r.job
          | none => v
        else match v.gang? r.job r.gid with
          | some g => (v.setGang r.job r.gid ((g.leave r.rcd).endTask r.taskAddr owed)).maybeRetire r.job r.gid
          | none => v
      (r.rcd.parent = 0 ∨ dsm = true → exec (.done p) s = .next (leaves s0))
      ∧ (∀ s1 : State, r.rcd.parent ≠ 0 → dsm = false → s0.cur = s.cur → (s0.tile s.cur).run = some r →
        (∀ j, s0.job? r.job = some j → parent ∉ j.blocked) → s0.decJC r.job r.gid parent (some r.rcd) = .ok s1 →
        exec (.done p) s = .next (leaves s1))
      ∧ (∀ g : Gang, s.runGang r = some g → dsm = false → r.rcd.parent = 0 → ∃ (s' : State) (g' : Gang), exec (.done p) s = .next s'
        ∧ (s'.tile s.cur).run = none ∧ s'.gang? r.job r.gid = some g'
        ∧ ((∀ x ∈ g.tasks, x.addr = r.taskAddr ∧ x.owes = none) → g.phase = .running → g.meas = none → g'.phase = .retired)
        ∧ ((∃ x ∈ g.tasks, x.addr ≠ r.taskAddr) → g'.phase = g.phase
          ∧ ∀ x, x ∈ g'.tasks ↔ x ∈ g.tasks ∧ ¬ (x.addr = r.taskAddr ∧ x.owes = none)))))
  ∧ (∀ (s : State) (j : Job) (job gang parent : Nat) (child : Option Record), s.job? job = some j → AMap.get? j.images parent = none →
    let fails (u : State) := u.decError job gang parent child
    let held := s.tiles.find? (fun e => e.2.hosts job parent)
    (∀ (n : Nat) (t : Tile) (x : Run), held = some (n, t) → t.run = some x →
      (x.rcd.jc ≠ 0 → s.decJC job gang parent child
        = .ok (s.setTile n { t with run := some { x with rcd := { x.rcd with jc := x.rcd.jc - 1 } } }))
      ∧ (x.rcd.jc = 0 → s.decJC job gang parent child = .ok (fails s)))
    ∧ (∀ (x : Record) (q1 q2 : List Record), held = none → j.ready = q1 ++ x :: q2 → x.addr = parent → (∀ y ∈ q1, y.addr ≠ parent) →
      (x.jc ≠ 0 → s.decJC job gang parent child = .ok (s.setJob job { j with ready := q1 ++ { x with jc := x.jc - 1 } :: q2 }))
      ∧ (x.jc = 0 → s.decJC job gang parent child = .ok (fails s)))
    ∧ (∀ (s1 : State) (bs : List Byte), s.decHeld job parent j = .absent →
      (∀ g, s.gang? job gang = some g → ∀ e ∈ g.outlived, e.1 ≠ parent) →
      s.devRead job (s.jobSite job) parent 64 accLoad = .ok (s1, bs) →
      let x := Record.ofBytes bs
      let y : Record := { x with jc := x.jc - 1 }
      (chkOk bs = false ∨ x.jc = 0 → s.decJC job gang parent child = .ok (fails s1))
      ∧ (∀ s2 : State, chkOk bs = true → x.jc ≠ 0 → s1.taskWrite job (s1.jobSite job) y parent y.bytes = .ok s2 →
        let joins := ∃ w ∈ j.susp, w.addr = parent ∧ w.why = .join
        (y.jc = 0 ∧ joins → s.decJC job gang parent child = .ok (s2.wake job parent false))
        ∧ (¬ (y.jc = 0 ∧ joins) → s.decJC job gang parent child = .ok s2)))
    ∧ (∀ w ∈ j.susp, w.addr = parent → held = none → (∀ x ∈ j.ready, x.addr ≠ parent) →
      (∀ e ∈ s.tiles, (∀ x ∈ e.2.deque, x.addr ≠ parent) ∧ ∀ x, e.2.saved = some x → x.rcd.addr ≠ parent) →
      s.decHeld job parent j = .absent))

/-- R171, R172, R170, R299, R301: a launch is staged under the task's key as a command of 64 bytes, its status address aligned to
32, after which the task's earlier stores are released: in a free way of its set, for the head of its stream else in the overflow;
a gang that is not the head stalls when the set is full. gdone seals the task's open entries, whatever requests are open, and
stalls for nothing; in a graph node its batch carries the completion event. Both are illegal in the border context. A suspended
record whose cycle has come, and which waits for no reply, is suspended no longer and goes to the tail of the ready queue, or of the
pending list when the queue has no room for it.
(That a launch's entry lies in set 0 of the polder's lowest slice is the model's reading, log 28.) -/
def Obligations.LaunchAndWake : Prop :=
  (∀ (s : State) (r : Run), s.Ready r → ∀ (p : Pred), (s.tile s.cur).enabled p = true → ∀ (graph : Bool) (a b c : WReg) (sn : Fin 16),
    let t := s.tile s.cur
    let illegal := s.takeTrap s.cur r 0x01 r.pc
    (r.rcd.handler = true → exec (.launch p graph a b c sn) s = .next illegal ∧ exec (.gdone p) s = .next illegal)
    ∧ (r.rcd.handler = false → (t.w b).toNat % 32 ≠ 0 → exec (.launch p graph a b c sn) s = .next (s.takeTrap s.cur r 0x08 (t.w b)))
    ∧ ∀ (j : Job) (g : Gang), s.job? r.job = some j → s.runGang r = some g →
      (let slice := s.launchSlice r.job
        let ways := match s.polder? j.polder with
          | some q => q.memcfg.toNat / 4096 % 8
          | none => 2
        let isHead := (j.stream g.stream).opened = true ∧ (j.stream g.stream).head = g.ticket
        let waits := ∃ x, r.stall = some x ∧ x.kind = .staging
        let room := s.stagedAt (fun e => decide (e.slice = slice) && decide (e.set = 0) && !e.ovf) < 4 * ways
        let spare := s.stagedAt (fun e => decide (e.slice = slice) && e.ovf) < 32768
        let cmd := leBytes 8 (t.w a).toNat ++ leBytes 8 (if graph then 2 else 1) ++ leBytes 8 (t.w c).toNat
          ++ leBytes 8 (t.w b).toNat ++ List.replicate 32 0
        let staged (ovf : Bool) := s.finish r ((s.setGang r.job r.gid { g with ord := g.ord + 1, entries := g.entries ++ [
          { key := r.rcd.key, ord := g.ord, eff := .launch sn.val cmd, va := 0, slice := slice, set := 0, ovf := ovf, step := g.step
            site := s.siteOf s.cur }] }).release
          s.cur .gang)
        (t.w b).toNat % 32 = 0 →
          (room → (isHead ∨ ¬ waits) → exec (.launch p graph a b c sn) s = .next (staged false))
          ∧ (¬ room → isHead → spare → exec (.launch p graph a b c sn) s = .next (staged true))
          ∧ (¬ isHead → (¬ room ∨ waits) → exec (.launch p graph a b c sn) s = .next (s.noteStall s.cur .staging)))
      ∧ (let sealed := g.seal g.journalsOn (fun e => decide (e.key = r.rcd.key))
        exec (.gdone p) s = .next (s.finish r (s.setGang r.job r.gid
          (if g.node.isSome ∧ g.nodeSent = false ∧ g.nodeBatch = none then { sealed with nodeBatch := some sealed.nbatch } else sealed)))))
  ∧ (∀ (s : State) (job addr : Nat) (j : Job), s.job? job = some j →
    let due := ∃ x ∈ j.susp, x.addr = addr ∧ ∃ c, x.why = .until c ∧ (c + 1023) / 1024 * 1024 ≤ s.ccy.toNat
    let s0 := s.setJob job { j with
      susp := j.susp.filter (fun x => decide (x.addr ≠ addr))
      gangs := j.gangs.map (fun (e : Nat × Gang) => (e.1, { e.2 with
        tasks := e.2.tasks.map (fun (t : TaskInfo) => if t.addr = addr then { t with blocked := false } else t) })) }
    (due → addr ∉ j.blocked → ∀ (bs : List Byte) (s1 : State), s0.devRead job (s0.jobSite job) addr 64 accLoad = .ok (s1, bs) →
      chkOk bs = true →
      let rcd := Record.ofBytes bs
      (if rcd.handler = true then rcd.gang.toNat = noGang ∧ rcd.valid 65535 = true
          ∧ ∀ e ∈ j.gangs, e.2.live = true → ∀ x ∈ e.2.tasks, x.addr ≠ addr
        else ∃ g, s1.gang? job rcd.gang.toNat = some g ∧ g.live = true ∧ rcd.valid g.desc.nstage = true) →
      exec (.suspendWake job addr) s = .next (s1.pushReady job rcd false)
      ∧ (j.pending = [] → j.ready.length < j.readyQN → ∃ (s2 : State) (j2 : Job), exec (.suspendWake job addr) s = .next s2
        ∧ s2.job? job = some j2 ∧ j2.ready = j.ready ++ [rcd] ∧ (∀ x, x ∈ j2.susp ↔ x ∈ j.susp ∧ x.addr ≠ addr))
      ∧ (j.pending.length < 2 ^ 20 → j.readyQN ≤ j.ready.length → ∀ s2 : State,
        s1.taskWrite job (s1.jobSite job) rcd rcd.addr rcd.bytes = .ok s2 →
        ∃ (s3 : State) (j3 : Job), exec (.suspendWake job addr) s = .next s3 ∧ s3.mem = s2.mem
          ∧ s3.job? job = some j3 ∧ j3.ready = j.ready ∧ j3.pending = j.pending ++ [⟨rcd.addr, false, rcd.seq.toNat⟩]))
    ∧ (¬ due ∨ addr ∈ j.blocked → exec (.suspendWake job addr) s = .next s))

/-! Vectors (groups 0x40 to 0x49). -/

/-- R195, R196, R192: element arithmetic: integers exact and put into the lane, saturated where asked; floating lanes rounded once
from the exact value, NV for an invalid operation; minima and maxima by value; signs cleared or inverted; one rounding for the
fused forms. -/
def Obligations.VectorArithmetic : Prop :=
  ∀ (s : State) (r : Run), s.Ready r → ∀ (p : Pred) (ty : Ty) (m : Rnd) (sat : Bool) (d a : VReg) (b : OpVB), 8 ≤ ty.bits →
    let lanes := List.range (1024 / ty.bits)
    let bv (t : Tile) : VWord := match b with
      | .reg k => t.v k
      | .imm x => vImm ty.bits x
    let sr (t : Tile) (j : Nat) : BitVec 32 := match m with
      | .sr c => srWord (t.v c) j
      | _ => srWord 0 j
    let srs := srRegs m
    let el (x : VWord) (j : Nat) := vElem ty.bits x j
    let int (x : VWord) (j : Nat) := intOf ty.signed ty.bits (el x j)
    let num (x : VWord) (j : Nat) := valueOf ty (el x j)
    let all : Nat → Bool := fun _ => true
    let binary (i : Instr) (fi : Int → Int → Int) (ff : Machine.Num → Machine.Num → Machine.Num) :=
      s.VectorStep r i p lanes ([a] ++ vbRegs b ++ srs) (some d) (fun t w t' => t.VectorResult ty w d 1 all (fun j =>
        if ty.isInt then
          let x := saturate ty sat (fi (int (t.v a) j) (int (bv t) j))
          ((x.1 % 2 ^ ty.bits).toNat, x.2)
        else
          let x := ff (num (t.v a) j) (num (bv t) j)
          let y := round ty m sat (sr t j) x
          (y.1, y.2 ||| nvIf [num (t.v a) j, num (bv t) j] x)) t')
    let fused (i : Instr) (f : Machine.Num → Machine.Num → Machine.Num) :=
      s.VectorStep r i p lanes ([d, a] ++ vbRegs b ++ srs) (some d) (fun t w t' => t.VectorResult ty w d 2 all (fun j =>
        let x := f ((num (t.v a) j).mul (num (bv t) j)) (num (t.v d) j)
        let y := round ty m sat (sr t j) x
        (y.1, y.2 ||| nvIf [num (t.v a) j, num (bv t) j, num (t.v d) j] x)) t')
    let signed (i : Instr) (fi : Int → Int) (fp : Nat → Nat) :=
      s.VectorStep r i p lanes [a] (some d) (fun t w t' => t.VectorResult ty w d 1 all (fun j =>
        match fmtOf ty with
        | none =>
          let x := saturate ty sat (fi (int (t.v a) j))
          ((x.1 % 2 ^ ty.bits).toNat, x.2)
        | some g => if (num (t.v a) j).isNan then (g.nan, 0) else (fp (el (t.v a) j), 0)) t')
    let bound (i : Instr) (mx : Bool) :=
      s.VectorStep r i p lanes ([a] ++ vbRegs b) (some d) (fun t w t' => t.VectorResult ty w d 1 all (fun j =>
        (minMaxPat ty mx (el (t.v a) j) (el (bv t) j), 0)) t')
    binary (.vadd p ty m sat d a b) (fun x y => x + y) (fun x y => Machine.Num.add (m == .rdn) x y)
    ∧ binary (.vsub p ty m sat d a b) (fun x y => x - y) (fun x y => Machine.Num.add (m == .rdn) x y.neg)
    ∧ binary (.vmul p ty m sat d a b) (fun x y => x * y) (fun x y => x.mul y)
    ∧ fused (.vfma p ty m sat d a b) (fun q e => Machine.Num.add (m == .rdn) q e)
    ∧ fused (.vfms p ty m sat d a b) (fun q e => Machine.Num.add (m == .rdn) q e.neg)
    ∧ fused (.vfnma p ty m sat d a b) (fun q e => Machine.Num.add (m == .rdn) e q.neg)
    ∧ bound (.vmin p ty d a b) false ∧ bound (.vmax p ty d a b) true
    ∧ (ty.isInt = true ∨ (fmtOf ty).isSome = true →
      signed (.vabs p ty sat d a) (fun x => if x < 0 then -x else x) (fun x => x % 2 ^ (ty.bits - 1))
      ∧ signed (.vneg p ty sat d a) (fun x => -x) (fun x => x ^^^ 2 ^ (ty.bits - 1)))

/-- R197, R198, R202, R203: logic, shifts, selection and the moves between lanes carry bit patterns, whatever the type, set no flag
and leave the elements of lanes that are off. -/
def Obligations.VectorMoves : Prop :=
  ∀ (s : State) (r : Run), s.Ready r → ∀ (p : Pred) (ty : Ty) (d a x : VReg) (b : OpVB) (c : FReg) (aw : WReg) (k : BitVec 9) (hi : Bool),
    let n := 1024 / ty.bits
    let lanes := List.range (if ty.bits < 8 then 128 else n)
    let bv (t : Tile) : VWord := match b with
      | .reg k => t.v k
      | .imm v => vImm ty.bits v
    let el (v : VWord) (j : Nat) := vElem ty.bits v j
    let pair (u v : VWord) (j : Nat) := if j < n then el u j else el v (j - n)
    let moves (i : Instr) (reads : List VReg) (f : Tile → Nat → Nat) :=
      s.VectorStep r i p lanes reads (some d) (fun t w t' => t.VectorResult ty w d 1 (fun _ => true) (fun j => (f t j, 0)) t')
    let two (i : Instr) (f : Nat → Nat → Nat) := moves i ([a] ++ vbRegs b) (fun t j => f (el (t.v a) j) (el (bv t) j))
    two (.vand p ty d a b) (fun u v => u &&& v) ∧ two (.vor p ty d a b) (fun u v => u ||| v) ∧ two (.vxor p ty d a b) (fun u v => u ^^^ v)
    ∧ two (.vshl p ty d a b) (fun u v => u * 2 ^ (v % ty.bits)) ∧ two (.vshr p ty d a b) (fun u v => u / 2 ^ (v % ty.bits))
    ∧ (8 ≤ ty.bits → two (.vsar p ty d a b) (fun u v =>
      ((if 2 ^ (ty.bits - 1) ≤ u then (u : Int) - 2 ^ ty.bits else u) / 2 ^ (v % ty.bits) % 2 ^ ty.bits).toNat))
    ∧ moves (.vsel p ty d a b c) ([a] ++ vbRegs b)
      (fun t j => if (t.f c).getLsbD (if ty.bits < 8 then j * ty.bits / 8 else j) then el (t.v a) j else el (bv t) j)
    ∧ moves (.vperm p ty d a x) [a, x] (fun t j => el (t.v a) (el (t.v x) j % n))
    ∧ moves (.vbcast p ty d aw) [] (fun t _ => (t.w aw).toNat)
    ∧ moves (.vslide p ty k d a x) [a, x] (fun t j => pair (t.v a) (t.v x) (j + k.toNat))
    ∧ moves (.vzip p ty hi d a x) [a, x] (fun t j =>
      if j % 2 = 0 then el (t.v a) (j / 2 + (if hi then n / 2 else 0)) else el (t.v x) (j / 2 + (if hi then n / 2 else 0)))
    ∧ moves (.vunzip p ty hi d a x) [a, x] (fun t j => pair (t.v a) (t.v x) (2 * j + (if hi then 1 else 0)))

/-- R199, R200, R204: a conversion takes each destination element from its source element's exact value, times or divided by the
scale in w(B), and rounds once; elements outside PART stay; the special functions round once. -/
def Obligations.VectorConversions : Prop :=
  ∀ (s : State) (r : Run), s.Ready r → ∀ (p : Pred) (ty sty : Ty) (part : BitVec 3) (m : Rnd) (sat : Bool) (d a : VReg) (b : WReg),
    let nd := 1024 / ty.bits
    let ns := 1024 / sty.bits
    let wide : Bool := decide (sty.bits ≤ ty.bits)
    let dom (j : Nat) : Bool := wide || (decide (part.toNat * ns ≤ j) && decide (j < (part.toNat + 1) * ns))
    let src (j : Nat) : Nat := if wide then j + part.toNat * nd else j - part.toNat * ns
    let sr (t : Tile) (j : Nat) : BitVec 32 := match m with
      | .sr c => srWord (t.v c) j
      | _ => srWord 0 j
    let lane (j : Nat) : Nat := if ty.bits < 8 then j * ty.bits / 8 else j
    let converts (i : Instr) (f : Tile → Nat → Machine.Num → Nat × Fl) :=
      s.VectorStep r i p (((List.range nd).filter dom).map lane) ([a] ++ srRegs m) (some d) (fun t w t' =>
        t.VectorResult ty w d 1 dom (fun j => f t j (valueOf sty (vElem sty.bits (t.v a) (src j)))) t')
    let special (i : Instr) (fn : Special) :=
      s.VectorStep r i p (List.range nd) ([a] ++ srRegs m) (some d) (fun t w t' =>
        t.VectorResult ty w d 1 (fun _ => true) (fun j => special fn ty m sat (sr t j) (valueOf ty (vElem ty.bits (t.v a) j))) t')
    ((wide = true → (part.toNat + 1) * nd ≤ ns) → (wide = false → (part.toNat + 1) * ns ≤ nd) →
      converts (.vcvt p ty sty part m sat d a) (fun t j x => round ty m sat (sr t j) x)
      ∧ converts (.vquant p ty sty part m sat d a b) (fun t j x => scaleDivRound ty m sat (sr t j) x ((t.w b).toNat % 2 ^ 20))
      ∧ converts (.vdq p ty sty part m sat d a b) (fun t j x =>
        let y := scaleMul x ((t.w b).toNat % 2 ^ 20)
        let v := round ty m sat (sr t j) y.1
        (v.1, v.2 ||| y.2)))
    ∧ (8 ≤ ty.bits → special (.vrecip p ty m sat d a) .recip ∧ special (.vrsqrt p ty m sat d a) .rsqrt
      ∧ special (.vexp2 p ty m sat d a) .exp2 ∧ special (.vlog2 p ty m sat d a) .log2)

/-- R201, R203, R205, R198: reductions and dot products of the enabled elements into w(D), one element to or from a scalar register,
comparisons into the enabled bits of f(D), and the operations on flag registers. -/
def Obligations.VectorToScalarAndFlags : Prop :=
  ∀ (s : State) (r : Run), s.Ready r → ∀ (p : Pred) (ty : Ty) (m : Rnd) (sat : Bool) (d aw : WReg) (a b vd : VReg) (bv : OpVB)
    (fd fa fb : FReg) (cond : Cond) (ix : OpB), 8 ≤ ty.bits →
    let n := 1024 / ty.bits
    let lanes := List.range n
    let el (v : VWord) (j : Nat) := vElem ty.bits v j
    let on (w : FWord) := lanes.filter (fun j => w.getLsbD j)
    let sr (t : Tile) : VWord := match m with
      | .sr c => t.v c
      | _ => 0
    let sums (i : Instr) (vs : List VReg) (per : Nat) :=
      s.VectorStep r i p lanes (vs ++ srRegs m) none (fun t w t' =>
        let es := on w
        ((fmtOf ty).isSome = true →
          let x := windowSum ((t.w d).toNat % 2 ^ 32) (es.map (fun j => Term.prod (vs.map (fun v => valueOf ty (el (t.v v) j))))) m sat
            (BitVec.ofNat 32 (sr t).toNat)
          t' = t.laneResult d (word x.1) x.2 ty (per * es.length))
        ∧ ((fmtOf ty).isSome = false →
          let x := (if ty.signed then (t.w d).toInt else ((t.w d).toNat : Int))
            + (es.map (fun j => (vs.map (fun v => intOf ty.signed ty.bits (el (t.v v) j))).prod)).sum
          let y := saturate (if ty.signed then .s64 else .n64) sat x
          t' = t.laneResult d (BitVec.ofInt 64 y.1) y.2 ty (per * es.length)))
    let bounds (i : Instr) (mx : Bool) :=
      s.VectorStep r i p lanes [a] none (fun t w t' => t' = t.laneResult d
        (extPat ty ((on w).foldl (fun z j => minMaxPat ty mx z (el (t.v a) j)) ((t.w d).toNat % 2 ^ ty.bits))) 0 ty (on w).length)
    let flags (i : Instr) (f : Tile → Nat → Bool) :=
      s.VectorStep r i p (List.range 128) [] none (fun t w t' => ∃ x : FWord,
        (∀ j, j < 128 → x.getLsbD j = if w.getLsbD j then f t j else (t.f fd).getLsbD j)
        ∧ t' = (t.setF fd x).count 17 ((List.range 128).countP (fun j => w.getLsbD j)))
    sums (.vredsum p ty m sat d a) [a] 1 ∧ sums (.vdot p ty m sat d a b) [a, b] 2
    ∧ bounds (.vredmax p ty d a) true ∧ bounds (.vredmin p ty d a) false
    ∧ s.VectorStep r (.vamax p ty d a) p lanes [a] none (fun t w t' =>
      t' = t.laneResult d (word ((on w).foldl (fun z j => maxAbs ty z (absPat ty (el (t.v a) j))) (absPat ty ((t.w d).toNat % 2 ^ ty.bits)))) 0
        ty (on w).length)
    ∧ s.VectorStep r (.vcmp p ty cond fd a bv) p lanes ([a] ++ vbRegs bv) none (fun t w t' => ∃ x : FWord,
      let y : VWord := match bv with
        | .reg k => t.v k
        | .imm v => vImm ty.bits v
      (∀ j, j < 128 → x.getLsbD j = if j < n ∧ w.getLsbD j = true then patCmp ty cond (el (t.v a) j) (el y j) else (t.f fd).getLsbD j)
      ∧ t' = (t.setF fd x).count (16 + ty.code) (on w).length)
    ∧ flags (.fand p fd fa fb) (fun t j => (t.f fa).getLsbD j && (t.f fb).getLsbD j)
    ∧ flags (.for_ p fd fa fb) (fun t j => (t.f fa).getLsbD j || (t.f fb).getLsbD j)
    ∧ flags (.fxor p fd fa fb) (fun t j => (t.f fa).getLsbD j != (t.f fb).getLsbD j)
    ∧ flags (.fnot p fd fa) (fun t j => !(t.f fa).getLsbD j)
    ∧ s.VectorStep r (.fpop p ty d fa) p lanes [] none (fun t w t' =>
      t' = t.laneResult d (word (lanes.countP (fun j => w.getLsbD j && (t.f fa).getLsbD j))) 0 .n8 (on w).length)
    ∧ s.VectorStep r (.ffirst p ty d fa) p lanes [] none (fun t w t' => ∃ k, k ≤ n
      ∧ (∀ j, j < k → (w.getLsbD j && (t.f fa).getLsbD j) = false) ∧ (k < n → (w.getLsbD k && (t.f fa).getLsbD k) = true)
      ∧ t' = t.laneResult d (word k) 0 .n8 (on w).length)
    ∧ (let i : Nat := match ix with
        | .imm v => v.toNat
        | .reg k => ((s.tile s.cur).w k).toNat % n
      i < n →
      s.VectorStep r (.vext p ty d a ix) p [i] [a] none (fun t _ t' => t' = t.laneResult d (putInt ty (el (t.v a) i)) 0 ty 1)
      ∧ s.VectorStep r (.vins p ty vd aw ix) p [i] [vd] (some vd) (fun t _ t' => ∃ v : VWord,
        (∀ j, j < n → el v j = if j = i then (t.w aw).toNat % 2 ^ ty.bits else el (t.v vd) j)
        ∧ t' = (t.setV vd v).count (16 + ty.code) 1))

/-! Lazy-uniform registers (groups 0x60 to 0x63). -/

/-- R206, R207, R212, R213, R209, R211: a decision U < t is false when t lies at or below Lo, true when it lies at or above Hi, a
LAZY_EXHAUSTED trap when t lies inside 256 digits; otherwise the register reads its next block and decides the same question, so
that extending first never changes an answer. An image that is not valid is illegal. A generator's next block is the one its
reservation names. -/
def Obligations.LazyDecisions : Prop :=
  ∀ (s : State) (r : Run), s.Ready r → ∀ (k : YReg) (num : Int) (den : Nat), 0 < den →
    let t := s.tile s.cur
    let y := LReg.of (t.sp.readLE (t.base + 0x1280 + 64 * k.val) 64)
    let lo : Int := y.digits
    let hi : Int := y.digits + 2 ^ (256 - y.len)
    let inside := lo * den < num * 2 ^ 256 ∧ num * 2 ^ 256 < hi * den
    (y.valid = false → decideY k (.frac num den) s = .error { why := .trap 0x01 r.pc })
    ∧ (y.valid = true →
      (num * 2 ^ 256 ≤ lo * den → decideY k (.frac num den) s = .ok (false, s))
      ∧ (hi * den ≤ num * 2 ^ 256 → decideY k (.frac num den) s = .ok (true, s))
      ∧ (inside → y.len = 256 → decideY k (.frac num den) s = .error { why := .trap 0x0C (word k.val), keep := some s })
      ∧ (y.len < 256 → ∀ (y1 : LReg) (s1 : State), extend k y s = .ok (y1, s1) → s1.Ready r → s1.cur = s.cur →
        (inside → decideY k (.frac num den) s = decideY k (.frac num den) s1)
        ∧ ∀ (c c1 : Bool) (u u1 : State), decideY k (.frac num den) s = .ok (c, u) → decideY k (.frac num den) s1 = .ok (c1, u1) → c = c1)
      ∧ (y.len < 256 → y.kind = 1 → ∀ j : Job, s.job? r.job = some j →
        ∃ s1 : State, extend k y s = .ok ({ y with
            digits := y.digits + (genBlock j.dkey y.strm (y.pos + word (y.len / 64))).toNat * 2 ^ (192 - y.len)
            len := y.len + 64 }, s1) ∧ s1.mem = s.mem))

/-- R208, R210, R217: what each lazy instruction writes: draws write their register, then reserve blocks by advancing POS of their descriptor; images are
loaded and copied whole when valid; comparisons fill f(D); reads, the search and yext give what R217 computes.
(That an operand which fails R207 comes before a table that is not aligned is the model's choice, log 127, and that the table's
addresses are taken modulo 2^64, log 126.) -/
def Obligations.LazyInstructions : Prop :=
  ∀ (s : State) (r : Run), s.Ready r → ∀ (p : Pred), (s.tile s.cur).enabled p = true →
    ∀ (d : YReg) (y : YReg) (z : YReg) (wd a b c : WReg) (fd : FReg) (vd : VReg) (m : Rnd),
    let t := s.tile s.cur
    let ea := t.w a
    let im (k : YReg) := t.sp.readLE (t.base + 0x1280 + 64 * k.val) 64
    let set (u : State) (f : Tile → Tile) := u.setTile u.cur (f (u.tile u.cur))
    let putY (k : YReg) (x : Nat) (u : Tile) := u.putSp (u.base + 0x1280 + 64 * k.val) (leBytes 64 x)
    let flag (u : State) (o : Bool) := s.finish r (set u (fun q => q.setF fd (if o then onesF else 0)))
    let illegal := s.takeTrap s.cur r 0x01 r.pc
    let Y := LReg.of (im y)
    let Z := LReg.of (im z)
    (ea.toNat % 32 ≠ 0 → exec (.ydraw p d a) s = .next (s.takeTrap s.cur r 0x08 ea))
    ∧ (ea.toNat % 64 ≠ 0 → exec (.yset p d a) s = .next (s.takeTrap s.cur r 0x08 ea))
    ∧ (ea.toNat % 32 = 0 → ∀ (bs : List Byte) (ls : List Lane) (s1 s2 s3 : State), loadAt [(ea.toNat, 32)] s = .ok (bs, s1) →
      let kind := fieldAt bs 0 4
      let strm := fieldAt bs 4 4
      let pos := fieldAt bs 8 8
      let base := fieldAt bs 16 8
      let nblk := fieldAt bs 24 8
      (kind = 1 ∧ base = 0 ∧ nblk = 0 ∨ kind = 2 ∧ base % 8 = 0 ∧ base < 2 ^ 60) → pos < 2 ^ 64 → base < 2 ^ 64 →
      (kind = 2 → nblk < pos + 4 →
        exec (.ydraw p d a) s = .next (s.takeTrap s.cur r 0x0C (word (0x100 + d.val))))
      ∧ ((kind = 2 → pos + 4 ≤ nblk) → checkLanes .store [(ea.toNat + 8, 8)] s1 = .ok (ls, s2) →
        ls.forM (fun l => storeLane l (leBytes 8 (pos + 4)))
          (set s2 (putY d (2 ^ 272 * kind + 2 ^ 288 * strm + 2 ^ 320 * pos + 2 ^ 384 * base))) = .ok ((), s3) →
        exec (.ydraw p d a) s = .next (s.finish r s3)))
    ∧ (∀ (s0 s1 s2 s3 : State) (q : DSrc) (bs : List Word), streamsBefore [] (some vd) s = .ok ((), s0) → reserve a 16 vd.val s0 = .ok (q, s1) →
      (List.range 16).mapM (fun i => sourceBlock q.kind q.strm q.base (q.pos + word i)) s1 = .ok (bs, s2) →
      streamsAfter (some vd) (set s2 (fun u => u.setV vd (BitVec.ofNat 1024 (vOfElems 64 (bs.map (·.toNat)))))) = .ok ((), s3) →
      exec (.ydig p vd a) s = .next (s.finish r s3))
    ∧ (ea.toNat % 64 = 0 → ∀ (bs : List Byte) (s1 : State), loadAt [(ea.toNat, 32), (ea.toNat + 32, 32)] s = .ok (bs, s1) →
      (LReg.of (leVal bs)).valid = true → exec (.yset p d a) s = .next (s.finish r (set s1 (putY d (leVal bs)))))
    ∧ (Y.kind = 0 ∨ Y.valid = true → exec (.ycopy p d y) s = .next (s.finish r (set s (putY d (im y)))))
    ∧ (Y.kind ≠ 0 → Y.valid = false → exec (.ycopy p d y) s = .next illegal ∧ exec (.yrd p false m wd y) s = .next illegal
      ∧ exec (.ycmpq p fd y b c) s = .next illegal ∧ exec (.ycmpy p fd y z) s = .next illegal
      ∧ (t.w c ≠ 0 → exec (.ycat p wd y b c) s = .next illegal))
    ∧ (t.w c = 0 → exec (.ycat p wd y b c) s = .next (s.finish r (set s (fun u => u.setW wd (word (2 ^ 64 - 1))))))
    ∧ (Y.valid = true →
      (64 ≤ Y.len → exec (.yrd p false m wd y) s = .next (s.finish r (set s (fun u => u.setW wd (word (Y.digits / 2 ^ 192))))))
      ∧ (Y.len = 0 → ∀ (y1 : LReg) (s1 : State), extend y Y s = .ok (y1, s1) →
        exec (.yrd p false m wd y) s = .next (s.finish r (set s1 (fun u => u.setW wd (word (y1.digits / 2 ^ 192))))))
      ∧ (let x := round .f32 m false 0 (.fin false Y.digits (-256))
        exec (.yrd p true m wd y) s = .next (s.finish r (set s (fun u => (u.stick x.2).setW wd (word x.1)))))
      ∧ (∀ (o : Bool) (s1 : State), decideY y (.frac (t.w b).toNat (2 ^ 64)) s = .ok (o, s1) → exec (.ycmp p false fd y b) s = .next (flag s1 o))
      ∧ ((valueOf .f32 ((t.w b).toNat % 2 ^ 32)).isNan = true →
        exec (.ycmp p true fd y b) s = .next (s.finish r (set s (fun u => (u.stick fNV).setF fd 0))))
      ∧ ((valueOf .f32 ((t.w b).toNat % 2 ^ 32)).isNan = false → ∀ (o : Bool) (s1 : State),
        decideY y (Thr.ofNum (valueOf .f32 ((t.w b).toNat % 2 ^ 32))) s = .ok (o, s1) → exec (.ycmp p true fd y b) s = .next (flag s1 o))
      ∧ (t.w c = 0 → exec (.ycmpq p fd y b c) s = .next (flag s (decide (t.w b ≠ 0))))
      ∧ (t.w c ≠ 0 → ∀ (o : Bool) (s1 : State), decideY y (.frac (t.w b).toNat (t.w c).toNat) s = .ok (o, s1) →
        exec (.ycmpq p fd y b c) s = .next (flag s1 o))
      ∧ (exec (.ycmpy p fd y y) s = .next (flag s false))
      ∧ (Z.valid = true → y ≠ z → Y.hi ≤ Z.lo → exec (.ycmpy p fd y z) s = .next (flag s true))
      ∧ (Z.valid = true → y ≠ z → Z.hi ≤ Y.lo → exec (.ycmpy p fd y z) s = .next (flag s false))
      ∧ (2 ^ 32 ≤ (t.w c).toNat → exec (.ycat p wd y b c) s = .next illegal)
      ∧ (1 ≤ (t.w c).toNat → (t.w c).toNat < 2 ^ 32 → (t.w b).toNat % 8 ≠ 0 →
        exec (.ycat p wd y b c) s = .next (s.takeTrap s.cur r 0x08 (t.w b)))
      ∧ (1 ≤ (t.w c).toNat → (t.w c).toNat < 2 ^ 32 → (t.w b).toNat % 8 = 0 → ∀ (w : Word) (i : Nat) (s1 s2 : State),
        loadWord (t.w b + word (8 * ((t.w c).toNat - 1))) s = .ok (w, s1) →
        searchLoop y (t.w b) w.toNat 33 0 ((t.w c).toNat - 1) s1 = .ok (i, s2) →
        exec (.ycat p wd y b c) s = .next (s.finish r (set s2 (fun u => u.setW wd (word i)))))
      ∧ (∀ k : BitVec 3, 64 * k.toNat ≤ Y.len → exec (.yext p y k) s = .next (s.finish r s))
      ∧ (∀ (k : BitVec 3) (s1 : State), extendTo y (64 * k.toNat) 4 Y s = .ok ((), s1) → exec (.yext p y k) s = .next (s.finish r s1)))

/-! Barge engines (groups 0x68 and 0x69, events). -/

/-- R273, R275, R276, R282 to R284: a request whose checks pass enters the FIFO under its tag; bgtry writes all ones when the tag is
outstanding or the FIFO full, where bgreq waits; a failed tag is observed by BARGE_FAULT and is then outstanding no more, a frozen one raises it once and stays; bgsleep
goes on when the tag is not outstanding, traps once its promise has passed, and else waits; bgwm reads a watermark. -/
def Obligations.BargeInstructions : Prop :=
  ∀ (s : State) (r : Run), s.Ready r → ∀ (p : Pred), (s.tile s.cur).enabled p = true →
    ∀ (d a : WReg) (tag : BitVec 4) (np : Bool) (recv : BitVec 10), a.val ≤ 60 →
    let t := s.tile s.cur
    let q := BReq.of (t.w a) (t.w (a + 1)) (t.w (a + 2)) (t.w (a + 3))
    let put (v : Word) := s.finish r (s.withTile (t.setW d v))
    let busy := word (2 ^ 64 - 1)
    (s.tagged r tag.toNat = none →
      exec (.bgsleep p np tag) s = .next (s.finish r s)
      ∧ exec (.bgwm p d recv tag) s = .next (put 0)
      ∧ (q.ok (s.runGang r) = false → exec (.bgreq p d a tag) s = .next (s.takeTrap s.cur r 0x01 r.pc)
        ∧ exec (.bgtry p d a tag) s = .next (s.takeTrap s.cur r 0x01 r.pc))
      ∧ (∀ v, q.ok (s.runGang r) = true → q.misaligned = some v → exec (.bgreq p d a tag) s = .next (s.takeTrap s.cur r 0x08 (word v))
        ∧ exec (.bgtry p d a tag) s = .next (s.takeTrap s.cur r 0x08 (word v)))
      ∧ (checkReq q s = .ok ((), s) →
        (8 ≤ t.fifo.length → exec (.bgreq p d a tag) s = .next (s.noteStall s.cur .fifo) ∧ exec (.bgtry p d a tag) s = .next (put busy))
        ∧ (t.fifo.length < 8 → ∃ s1 : State, exec (.bgreq p d a tag) s = .next (s.finish r s1) ∧ exec (.bgtry p d a tag) s = .next (s.finish r s1)
          ∧ (s1.tile s.cur).fifo = t.fifo ++ [s.nbarge] ∧ s1.nbarge = s.nbarge + 1
          ∧ ∃ b : Barge, s1.barges = s.barges ++ [b] ∧ b.id = s.nbarge ∧ b.job = r.job ∧ b.task = r.rcd.fp.toNat + 0x17C0 ∧ b.tile = s.cur
            ∧ b.tag = tag.toNat ∧ b.src = (t.w (a + 1)).toNat ∧ b.dst = (t.w (a + 2)).toNat ∧ b.len = (t.w a).toNat / 2 ^ 16 % 2 ^ 24
            ∧ b.rowlen = (t.w a).toNat / 2 ^ 40 ∧ b.ordered = (t.w a).getLsbD 4 ∧ b.mcast = (t.w a).getLsbD 5 ∧ b.dreg = d
            ∧ b.accepted = false ∧ b.failed = none ∧ b.frozen = none
            ∧ (∀ c ∈ b.chans, c.wm = b.dst ∧ c.dst = b.dst ∧ c.len = (if b.mcast then (t.w (a + 3)).toNat / 2 ^ 40 else 0) + b.len)
            ∧ b.chans.length = (if b.mcast then (t.w (a + 3)).toNat % 1024 else 1))))
    ∧ (∀ b : Barge, s.tagged r tag.toNat = some b →
      exec (.bgtry p d a tag) s = .next (put busy)
      ∧ (∀ va, b.failed = some va →
        let out := (s.dropBarge b.id).takeTrap s.cur r 0x09 (word va)
        exec (.bgreq p d a tag) s = .next out ∧ exec (.bgsleep p np tag) s = .next out
        ∧ (recv.toNat < b.chans.length → exec (.bgwm p d recv tag) s = .next out))
      ∧ (b.failed = none → exec (.bgreq p d a tag) s = .next (s.noteStall s.cur .barge))
      ∧ (b.chans.length ≤ recv.toNat → exec (.bgwm p d recv tag) s = .next (s.takeTrap s.cur r 0x01 r.pc))
      ∧ (∀ va, b.failed = none → b.frozen = some va → b.observed = false →
        let out := (s.mapBarge b.id (fun x => { x with observed := true })).takeTrap s.cur r 0x09 (word va)
        exec (.bgsleep p np tag) s = .next out ∧ (recv.toNat < b.chans.length → exec (.bgwm p d recv tag) s = .next out))
      ∧ (b.failed = none → b.frozen = none ∨ b.observed = true →
        (∀ c : Channel, b.chans[recv.toNat]? = some c → exec (.bgwm p d recv tag) s = .next (put (word c.wm)))
        ∧ (np = false → b.accepted = true → b.promise.toNat ≤ s.ccy.toNat →
          exec (.bgsleep p np tag) s = .next (s.takeTrap s.cur r 0x0A (word tag.toNat)))
        ∧ (np = true ∨ b.accepted = false ∨ s.ccy.toNat < b.promise.toNat →
          exec (.bgsleep p np tag) s = .next (s.noteStall s.cur (.sleep tag.toNat)))))

/-- R275, R277, R278, R282: an engine accepts the first request of a tile's FIFO and writes its promise to w(D) of the task that
stands there; a unit is read, then written, on every copy of a die-hashed page (log 104), and the watermark of its channel rises by
32 bytes, which BARGEB counts; the last unit ends the request;
a unit of its source that the request has written over is read as it was (R279); a bgsleep whose promise has passed traps. -/
def Obligations.BargeEngines : Prop :=
  (∀ (s : State) (n : Nat) (id : Nat) (rest : List Nat) (b : Barge), (s.tile n).fifo = id :: rest → id ∉ rest →
    s.barges.find? (fun x => decide (x.id = id)) = some b → b.tile = n →
    ∃ (s' : State) (v : Word), exec (.bargeAccept n) s = .next s' ∧ (s'.tile n).fifo = rest
      ∧ (∀ x ∈ s'.barges, x.id = id → x.accepted = true ∧ x.promise = v)
      ∧ (∀ x, x.id ≠ id → (x ∈ s'.barges ↔ x ∈ s.barges))
      ∧ (∀ r : Run, (s.tile n).run = some r → r.job = b.job → r.rcd.addr = b.task → (s'.tile n).w b.dreg = v)
      ∧ s'.mem = s.mem)
  ∧ (∀ (s : State) (req : Nat) (b : Barge) (i : Nat) (c : Channel) (o : Nat) (s1 s2 : State) (bs us : List Byte),
    s.barges.find? (fun x => decide (x.id = req)) = some b → b.accepted = true → b.failed = none → b.frozen = none →
    s.parkedNow b = false → s.bargeHeld b = false → b.nextUnit = some (i, c, o) → s.unitHeld b b.tile (b.srcAt i o) = false → s.unitHeld b c.tile (c.dst + o) = false →
    (b.overwrites i c (c.dst + o) = true → ∃ e ∈ b.kept, e.1 = c.dst + o) → s.readUnit b (b.srcAt i o) = .ok s1 bs → s1.writeUnit b c (c.dst + o) (b.ord + o / 32) bs = .ok s2 us →
    s2.barges.find? (fun x => decide (x.id = req)) = some b →
    ∃ s' : State, exec (.bargeUnitWrite req) s = .next s' ∧ s'.mem = (s2.dhDrain.countBarge b 32).mem
      ∧ ((∀ j e, b.chans[j]? = some e → j ≠ i → e.dst + e.len ≤ e.wm) → c.dst + c.len ≤ c.wm + 32 → ∀ x ∈ s'.barges, x.id ≠ req)
      ∧ (c.wm + 32 < c.dst + c.len → ∃ b', s'.barges.find? (fun x => decide (x.id = req)) = some b'
        ∧ b'.chans[i]? = some { c with wm := c.wm + 32 } ∧ ∀ j, j ≠ i → b'.chans[j]? = b.chans[j]?))
  ∧ (∀ (s : State) (b : Barge) (c : Channel) (a ord : Nat) (bs : List Byte), 0x0FFFFFFFFE000000 ≤ a → a < 0x0FFFFFFFFE180000 →
    let o := a - 0x0FFFFFFFFE000000
    let t := s.tile b.tile
    let u := s.tile c.tile
    (t.spBad o 32 = false → (∀ e ∈ b.kept, e.1 ≠ a) → o + 32 ≤ t.base + 0x1518 ∨ t.base + 0x1800 ≤ o →
      s.readUnit b a = .ok s (t.sp.readBytes o 32))
    ∧ (∀ e : Nat × List Byte, b.kept.find? (fun x => decide (x.1 = a)) = some e → s.readUnit b a = .ok s e.2)
    ∧ (u.keptApart o bs.length → s.writeUnit b c a ord bs = .ok (s.setTile c.tile (u.putSp o bs)) []))
  ∧ (∀ (s : State) (n : Nat) (r : Run) (b : Barge) (p : Pred) (tag : BitVec 4) (s1 : State) (w : IWord) (lw k : Nat) (since : Nat),
    (s.tile n).run = some r → r.stall = some ⟨.sleep k, since⟩ → s.fetchCheck n r r.pc r.entry = .ok (s1, w, lw) →
    decode w = some (.bgsleep p false tag) → s.tagged r tag.toNat = some b → b.accepted = true → b.promise.toNat ≤ s.ccy.toNat →
    b.failed = none → b.frozen = none → exec (.promiseMissed n) s = .next (s.takeTrap n r 0x0A (word tag.toNat)))


/-! Matrices (groups 0x70 to 0x78, events). -/

/-- R219, R222 to R227, R231, R135, R160, R239: with room in the queue, its checks passed and no uncorrectable error met, a copy moves the bytes or the elements of the
rows in use, as the task loads and stores them, mcfg writes TCFG, tzero and mclr clear; the tile register's other bytes and the
scratchpad's stay. A failing check, a negative immediate stride among them, is an exception with no effect, a full queue a stall, as
is a save pool without room for the state of the root that waits there; an operation whose queue entry has an error commits nothing;
the unit completes its oldest operation. (The model's: that an error waits in the queue for the next operation and what that one does
with it, log 35; whose state a task finds on its tile, log 83; the room that state needs in the save pool, log 84.) -/
def Obligations.MatrixCopies : Prop :=
  (∀ (s : State) (r : Run), s.Ready r → ∀ (p : Pred), (s.tile s.cur).enabled p = true → ∀ (d : TReg) (m : MReg) (a : WReg) (b : OpB),
    let t := (s.tile s.cur).prepMat
    let f0 (y : Nat) := t.base + 0x1200 ≤ y ∧ y < t.base + 0x1210
    let kept (y : Nat) := ∃ b ∈ t.images, (b + 0x1200 ≤ y ∧ y < b + 0x1210) ∨ (b + 0x1480 ≤ y ∧ y < b + 0x14C8)
    let rd (y : Nat) : Byte := if t.base + 0x1518 ≤ y ∧ y < t.base + 0x1800 ∧ r.sup = false then 0 else t.sp.get y
    let far := ∃ v : BitVec 40, b = .imm v ∧ v.msb = true
    let c := t.conf d
    let sz := c.ty.bits
    let rb := (c.cols * sz + 7) / 8
    let cb := (c.rows * sz + 7) / 8
    let o := (t.w a).toNat
    let st := (t.opB b).toNat
    let size := s.spSize s.cur
    let ok := 1 ≤ c.rows ∧ c.rows ≤ 128 ∧ 1 ≤ c.cols ∧ rb ≤ 256
    let place (n len y : Nat) := ∃ x k, x < n ∧ k < len ∧ y = o + x * st + k
    let ctl (y : Nat) := t.base + 0x1480 ≤ y ∧ y < t.base + 0x1800
    let next (i : Instr) (q : Tile → Prop) := ∃ t' : Tile, exec i s = .next (s.finish r (s.withTile t')) ∧ q t'
    let matOnly (t' : Tile) := t' = { t with
      mat := t'.mat
      matClean := false
      mregs := t'.mregs
      mq := t.mq ++ [⟨none⟩] } ∧ t'.mat.bad = []
    let reads (n len : Nat) := (∀ y, place n len y → y < size) ∧ (∀ x, x < n → t.spBad (o + x * st) len = false
      ∧ chanWait (0x0FFFFFFFFE000000 + (o + x * st)) len s = .ok ((), s))
    let all (x : Host.Outcome State Fault Refusal) := exec (.tld p d a b) s = x ∧ exec (.tldt p d a b) s = x ∧ exec (.tst p d a b) s = x
    let perm (i : Instr) (bad : Nat → Prop) := ∀ y, bad y → (∀ z, z < y → ¬ bad z) → exec i s = .next (s.takeTrap s.cur r 0x06 (word y))
    let stalls (k : StallKind) := all (.next (s.noteStall s.cur k)) ∧ exec (.tzero p d) s = .next (s.noteStall s.cur k)
      ∧ exec (.mclr p m) s = .next (s.noteStall s.cur k)
      ∧ ∀ (ty : Ty) (rows : BitVec 8) (cols : BitVec 10), exec (.mcfg p ty d rows cols) s = .next (s.noteStall s.cur k)
    (s.matRoom = false → stalls .matrixWait)
    ∧ (s.matRoom = true → 6 ≤ t.mq.length → stalls .matrixQueue)
    ∧ (s.matRoom = true → t.mq.length < 6 → t.mqBad = true →
      let lost := (s.withTile { s.tile s.cur with mqBad := false }).taskError r.job r.rcd s.cur
      exec (.tzero p d) s = .next lost ∧ exec (.mclr p m) s = .next lost
      ∧ ∀ (ty : Ty) (rows : BitVec 8) (cols : BitVec 10), exec (.mcfg p ty d rows cols) s = .next lost)
    ∧ (s.matRoom = true → t.mq.length < 6 → t.mat.bad = [] → t.mqBad = false →
      (∀ (ty : Ty) (rows : BitVec 8) (cols : BitVec 10), next (.mcfg p ty d rows cols) (fun t' => matOnly t'
        ∧ t'.conf d = ⟨ty, rows.toNat, cols.toNat⟩ ∧ ∀ y, y < 0x60000 + 8 * d.val ∨ 0x60008 + 8 * d.val ≤ y → t'.mat.get y = t.mat.get y))
      ∧ next (.tzero p d) (fun t' => matOnly t' ∧ ∀ y, t'.mat.get y = if 0x8000 * d.val ≤ y ∧ y < 0x8000 * d.val + 0x8000 then 0
          else t.mat.get y)
      ∧ next (.mclr p m) (fun t' => matOnly t' ∧ ∀ y, t'.mat.get y = if 0x40000 + 0x10000 * m.val ≤ y ∧ y < 0x50000 + 0x10000 * m.val then 0
          else t.mat.get y)
      ∧ (¬ ok → all (.next (s.takeTrap s.cur r 0x01 r.pc)))
      ∧ (ok → o % 32 ≠ 0 → all (.next (s.takeTrap s.cur r 0x08 (t.w a))))
      ∧ (ok → o % 32 = 0 → st % 32 ≠ 0 → all (.next (s.takeTrap s.cur r 0x08 (t.opB b))))
      ∧ (ok → o % 32 = 0 → st % 32 = 0 →
        perm (.tld p d a b) (fun y => place c.rows rb y ∧ size ≤ y)
        ∧ perm (.tldt p d a b) (fun y => place c.cols cb y ∧ size ≤ y)
        ∧ perm (.tst p d a b) (fun y => place c.rows rb y ∧ (size ≤ y ∨ ctl y))
        ∧ (far → (∀ y, place c.rows rb y → y < size) → exec (.tld p d a b) s = .next (s.takeTrap s.cur r 0x06 (word (o + st)))
          ∧ ((∀ y, place c.rows rb y → ¬ ctl y) → exec (.tst p d a b) s = .next (s.takeTrap s.cur r 0x06 (word (o + st)))))
        ∧ (far → (∀ y, place c.cols cb y → y < size) → exec (.tldt p d a b) s = .next (s.takeTrap s.cur r 0x06 (word (o + st))))
        ∧ (¬ far → reads c.rows rb → next (.tld p d a b) (fun t' => matOnly t'
          ∧ (∀ x k, x < c.rows → k < rb → t'.mat.get (0x8000 * d.val + 256 * x + k) = rd (o + x * st + k))
          ∧ ∀ y, (∀ x k, x < c.rows → k < rb → y ≠ 0x8000 * d.val + 256 * x + k) → t'.mat.get y = t.mat.get y))
        ∧ (¬ far → reads c.cols cb → next (.tldt p d a b) (fun t' => matOnly t'
          ∧ (∀ x y, x < c.rows → y < c.cols → rowElem sz (t'.row d x rb) y
            = rowElem sz (leVal ((List.range cb).map (fun k => rd (o + y * st + k)))) x)
          ∧ (∀ x, x < c.rows → t'.row d x rb / 2 ^ (sz * c.cols) = t.row d x rb / 2 ^ (sz * c.cols))
          ∧ ∀ y, (∀ x k, x < c.rows → k < rb → y ≠ 0x8000 * d.val + 256 * x + k) → t'.mat.get y = t.mat.get y))
        ∧ (¬ far → (∀ y, place c.rows rb y → y < size ∧ ¬ ctl y) → copyWaits true (copyRanges c false o st) s = .ok ((), s) →
          next (.tst p d a b) (fun t' => t' = { t with
              sp := t'.sp
              spPoison := t'.spPoison
              units := t'.units
              mq := t.mq ++ [⟨none⟩] }
            ∧ (∀ x k, x < c.rows → k < rb → ¬ kept (o + x * st + k) →
              (∀ z, x < z → z < c.rows → o + x * st + k < o + z * st ∨ o + z * st + rb ≤ o + x * st + k) →
              t'.sp.get (o + x * st + k) = BitVec.ofNat 8 (t.row d x rb % 2 ^ (sz * c.cols) / 256 ^ k))
            ∧ (∀ y, ¬ place c.rows rb y → ¬ kept y → t'.sp.get y = t.sp.get y)
            ∧ (t.root = none → (∀ y, f0 y → t.sp.get y = 0xFF) → ∀ y, f0 y → t'.sp.get y = 0xFF))))))
  ∧ ∀ (s : State) (n : Nat), ∃ s' : State, exec (.matrixOpComplete n) s = .next s' ∧ (s'.tile n).mq = (s.tile n).mq.drop 1
    ∧ s' = s.setTile n { s.tile n with mq := (s'.tile n).mq }

/-- R228 to R231, R185, R223: each element of the region of m(D) becomes the window sum of itself and the exact products of its row
and column, rounded once, and every other element stays; flags are the union; mscale adds each partial element times its two
scales; mrd and mwr move the patterns of enabled lanes. What breaks the conditions on configurations and origins is illegal. Where
no uncorrectable error is met (R239). -/
def Obligations.MatrixProducts : Prop :=
  ∀ (s : State) (r : Run), s.Ready r → ∀ (p : Pred) (md : Rnd) (sat : Bool) (row0 col0 row : BitVec 7) (kb : BitVec 6) (part : BitVec 2)
    (d m : MReg) (v : VReg) (a b c : TReg),
    let acc (t : Tile) (k : MReg) (x y : Nat) := t.mat.readLE (0x40000 + 0x10000 * k.val + 512 * x + 4 * y) 4
    let elem (t : Tile) (k : TReg) (x y : Nat) := rowElem (t.conf k).ty.bits (t.row k x (t.conf k).rb) y
    let inAcc (k : MReg) (y : Nat) := 0x40000 + 0x10000 * k.val ≤ y ∧ y < 0x50000 + 0x10000 * k.val
    let ok (q : TCfg) := 1 ≤ q.rows ∧ q.rows ≤ 128 ∧ 1 ≤ q.cols ∧ (q.cols * q.ty.bits + 7) / 8 ≤ 256
    let region (s1 s' : State) (t t' : Tile) (nr nc ctr n : Nat) (f : Nat → Nat → Nat × Fl) := ∃ fl : Fl,
      (∀ k, fl.getLsbD k = true ↔ ∃ i j, i < nr ∧ j < nc ∧ (f i j).2.getLsbD k = true)
      ∧ (∀ x y, x < 128 → y < 128 → acc t' d x y =
        if row0.toNat ≤ x ∧ x < row0.toNat + nr ∧ col0.toNat ≤ y ∧ y < col0.toNat + nc
        then (f (x - row0.toNat) (y - col0.toNat)).1 % 2 ^ 32 else acc t d x y)
      ∧ (∀ y, ¬ inAcc d y → t'.mat.get y = t.mat.get y)
      ∧ t'.sp = (t.stick fl).sp
      ∧ AMap.getD t'.meter ctr 0 = AMap.getD t.meter ctr 0 + (if r.sup = true then 0 else n)
      ∧ t' = { t with
        mat := t'.mat
        matClean := false
        mregs := t'.mregs
        mq := t.mq ++ [⟨none⟩]
        sp := t'.sp
        spPoison := t'.spPoison
        units := t'.units
        meter := t'.meter
        total := t'.total }
      ∧ (∀ n, n ≠ s.cur → s'.tile n = s1.tile n) ∧ s'.mem = s1.mem
    let products (i : Instr) (scaled : Bool) (types : Ty → Ty → Prop) := ∀ s1 : State, streamsBefore (srRegs md) none s = .ok ((), s1) →
      s1.Ready r → s1.cur = s.cur →
      let t := (s1.tile s.cur).prepMat
      let A := t.conf a
      let B := t.conf b
      let sr : VWord := match md with
        | .sr k => t.v k
        | _ => 0
      let legal := ok A ∧ ok B ∧ A.cols = B.cols ∧ A.cols ≤ 256 ∧ row0.toNat + A.rows ≤ 128 ∧ col0.toNat + B.rows ≤ 128 ∧ types A.ty B.ty
      s1.matRoom = true → t.mq.length < 6 → t.mat.bad = [] → t.mqBad = false →
      (¬ legal → exec i s = .next (s.takeTrap s.cur r 0x01 r.pc))
      ∧ (legal → ∃ s' : State, exec i s = .next (s.finish r s')
        ∧ region s1 s' t (s'.tile s.cur) A.rows B.rows (macCounter scaled A.ty B.ty) (A.rows * B.rows * A.cols) (fun i j =>
          windowSum (acc t d (row0.toNat + i) (col0.toNat + j))
            ((List.range A.cols).map (fun k => Term.prod [valueOf A.ty (elem t a i k), valueOf B.ty (elem t b j k)]))
            md sat (srWord sr (128 * (row0.toNat + i) + (col0.toNat + j)))))
    (s.tile s.cur).enabled p = true →
    (products (.mmac p md sat row0 col0 d a b) false (fun x y =>
        (x = y ∧ (x = .s8 ∨ x = .f16 ∨ x = .bf16 ∨ x = .e4m3 ∨ x = .e5m2 ∨ x = .s4 ∨ x = .e2m1))
        ∨ (x = .e4m3 ∧ y = .e5m2) ∨ (x = .e5m2 ∧ y = .e4m3))
    ∧ products (.mmacs p md sat row0 col0 d a b) true (fun x y => y = .ss8 ∧ (x = .s8 ∨ x = .e4m3 ∨ x = .e5m2))
    ∧ (let t := (s.tile s.cur).prepMat
      let B := t.conf b
      let C := t.conf c
      let legal := ok B ∧ ok C ∧ B.ty = .n32 ∧ C.ty = .n32 ∧ kb.toNat < B.cols ∧ kb.toNat < C.cols ∧ row0.toNat + B.rows ≤ 128
        ∧ col0.toNat + C.rows ≤ 128
      s.matRoom = true → t.mq.length < 6 → t.mat.bad = [] → t.mqBad = false →
      (¬ legal → exec (.mscale p md sat row0 col0 kb d m b c) s = .next (s.takeTrap s.cur r 0x01 r.pc))
      ∧ (legal → ∃ s' : State, exec (.mscale p md sat row0 col0 kb d m b c) s = .next (s.finish r s')
        ∧ region s s' t (s'.tile s.cur) B.rows C.rows 10 (B.rows * C.rows) (fun i j =>
          windowSum (acc t d (row0.toNat + i) (col0.toNat + j))
            [match sc20 (elem t b i kb.toNat % 2 ^ 20), sc20 (elem t c j kb.toNat % 2 ^ 20) with
              | some x, some y => Term.prod [valueOf .f32 (acc t m (row0.toNat + i) (col0.toNat + j)), .fin false x.1 x.2, .fin false y.1 y.2]
              | _, _ => .badScale]
            md sat 0))))
    ∧ (s.matRoom = true → (s.tile s.cur).prepMat.mat.bad = [] → s.VectorStep r (.mrd p v m row part) p (List.range 32) [] (some v) (fun t w t' => ∃ x : VWord,
      (∀ j, j < 32 → vElem 32 x j = if w.getLsbD j then acc t.prepMat m row.toNat (32 * part.toNat + j) else vElem 32 (t.v v) j)
      ∧ t' = t.prepMat.setV v x))
    ∧ ((∀ s1 : State, streamsBefore [v] none s = .ok ((), s1) → s1.matRoom = true) → s.VectorStep r (.mwr p d v row part) p (List.range 32) [v] none (fun t w t' =>
      (∀ x y, x < 128 → y < 128 → acc t' d x y =
        if x = row.toNat ∧ 32 * part.toNat ≤ y ∧ y < 32 * part.toNat + 32 ∧ w.getLsbD (y - 32 * part.toNat) = true
        then vElem 32 (t.v v) (y - 32 * part.toNat) else acc t.prepMat d x y)
      ∧ (∀ y, ¬ inAcc d y → t'.mat.get y = t.prepMat.mat.get y)
      ∧ t' = { t.prepMat with
        mat := t'.mat
        matClean := false
        mregs := t'.mregs }))

/-- R232 to R237, R142: a capability is formed of the tile's tenure for a tile the job owns, else null; mcmd sends its vector, an
element of the stream it is bound to, and waits for its verdict; the element is popped with the command's acceptance; an arriving command is refused for the first reason that fails, or carried out at its target as the instruction
issued there would be; mwait waits; two matching swaps exchange their send ranges, and both of different lengths are refused. One that has begun reads its predicate and registers no more, and its fault names the tile of
its capability. The bytes exchanged are those the tasks load, the reserved range as zeros, and f0 takes none (R132, R135).
(That mwait 0 never waits, an operation having its effect when it is issued, is the model's reading, log 73; what a begun instruction
reads again, log 138; that a word that is no listed command needs no right, log 135; the matrix state a command acts on, log 134.) -/
def Obligations.RemoteCommands : Prop :=
  (∀ (s : State) (r : Run), s.Ready r → ∀ (p : Pred), (s.tile s.cur).enabled p = true →
    ∀ (d a b c : WReg) (v : VReg) (rights : BitVec 6) (len : BitVec 17),
    let t := s.tile s.cur
    let n := (t.w a).toNat
    let capn := n % 1024
    let fault (k : Nat) := s.takeTrap s.cur r 0x0B (word (k * 65536 + capn))
    let peerFault (k : Nat) := s.takeTrap s.cur r 0x0B (word (k * 65536 + r.peer))
    (∃ x : Word, exec (.mcap p d a rights) s = .next (s.finish r (s.withTile (t.setW d x)))
      ∧ (n < 576 → (s.tile n).owner = .job r.job → x.toNat % 1024 = n ∧ x.toNat / 2 ^ 10 % 64 = rights.toNat
        ∧ x.toNat / 2 ^ 16 % 2 ^ 32 = (s.tile n).tenure.toNat ∧ x.toNat / 2 ^ 48 = (Config.capTag s.keyEpoch r.job n rights (s.tile n).tenure).toNat)
      ∧ (576 ≤ n ∨ (s.tile n).owner ≠ .job r.job → x = 0))
    ∧ (r.verdict = none → t.msg.isSome = true → ∀ (p' : Pred) (a' : WReg), exec (.mcmd p' a' v) s = .next (s.noteStall s.cur .verdict))
    ∧ (r.verdict = none → t.msg = none → 6 ≤ (s.tile capn).mq.length → exec (.mcmd p a v) s = .next (s.noteStall s.cur .matrixQueue))
    ∧ (r.verdict = none → t.msg = none → (s.tile capn).mq.length < 6 →
      ∀ s1 : State, streamsBefore [v] none s = .ok ((), s1) → s1.Ready r → s1.cur = s.cur →
      let x := (s1.tile s.cur).v v
      exec (.mcmd p a v) s = .next ((s.withTile { t with
        run := some { r with
          sent := if t.bound v then some x else none
          begun := some (.mcmd p a v)
          peer := capn }
        msg := some ⟨t.w a, x.setWidth 96, x.extractLsb' 128 64, x.extractLsb' 192 64, decide (x.extractLsb' 96 32 ≠ 0)⟩
        }).noteStall s.cur .verdict))
    ∧ (∀ (k : Nat) (p' : Pred) (a' : WReg), r.verdict = some k → k ≠ 0 → exec (.mcmd p' a' v) s = .next (peerFault k))
    ∧ (∀ (p' : Pred) (a' : WReg), r.verdict = some 0 → (r.sent = none → exec (.mcmd p' a' v) s = .next (s.finish r s))
      ∧ ∀ x, r.sent = some x → exec (.mcmd p' a' v) s = .next (s.finish r (s.withTile ((t.setV v x).sgStep (v.val - 28)))))
    ∧ exec (.mwait p 0) s = .next (s.finish r s)
    ∧ exec (.mwait p 1) s = .next (if ∃ o ∈ t.mq, o.sender = none then s.noteStall s.cur .matrixWait else s.finish r s)
    ∧ exec (.mwait p 2) s = .next (
      if (∃ e ∈ s.tiles, ∃ o ∈ e.2.mq, o.sender = some (r.rcd.fp.toNat + 0x17C0)) ∨ t.msg.isSome = true
      then s.noteStall s.cur .matrixWait else s.finish r s)
    ∧ (∀ p' : Pred, (r.swapped = some true → exec (.mswap p' a b c len) s = .next (s.finish r s))
      ∧ (r.swapped = some false → exec (.mswap p' a b c len) s = .next (peerFault 6))
      ∧ (r.swapped = none → t.swap.isSome = true → exec (.mswap p' a b c len) s = .next (s.noteStall s.cur .swap)))
    ∧ (r.swapped = none → t.swap = none →
      let l := len.toNat
      let x := (t.w b).toNat
      let y := (t.w c).toNat
      let fits := l % 32 = 0 ∧ 32 ≤ l ∧ l ≤ 65536 ∧ (x = y ∨ x + l ≤ y ∨ y + l ≤ x)
      let inside := x + l ≤ s.spSize s.cur ∧ y + l ≤ s.spSize s.cur ∧ (y + l ≤ t.base + 0x1480 ∨ t.base + 0x1800 ≤ y)
      (¬ fits → exec (.mswap p a b c len) s = .next (s.takeTrap s.cur r 0x01 r.pc))
      ∧ (fits → x % 32 ≠ 0 → exec (.mswap p a b c len) s = .next (s.takeTrap s.cur r 0x08 (t.w b)))
      ∧ (fits → x % 32 = 0 → y % 32 ≠ 0 → exec (.mswap p a b c len) s = .next (s.takeTrap s.cur r 0x08 (t.w c)))
      ∧ (fits → x % 32 = 0 → y % 32 = 0 → inside →
        (∀ k, s.capReason r (t.w a) (some 3) = some k → exec (.mswap p a b c len) s = .next (fault k))
        ∧ (s.capReason r (t.w a) (some 3) = none → copyWaits false [(x, l)] s = .ok ((), s) → copyWaits true [(y, l)] s = .ok ((), s) →
          (capn = s.cur → t.spBad x l = false →
            exec (.mswap p a b c len) s = .next (s.finish r (s.withTile (t.storeSp y (t.taskBytes x l)))))
          ∧ (capn ≠ s.cur →
            exec (.mswap p a b c len) s = .next ((s.withTile { t with
              swap := some ⟨capn, x, y, l⟩
              run := some { r with
                begun := some (.mswap p a b c len)
                peer := capn } }).noteStall s.cur .swap)))))
    ∧ (∀ (cap : Word) (k : Nat),
      let u := s.tile (cap.toNat % 1024)
      let null := cap = 0 ∨ cap.toNat / 2 ^ 48
        ≠ (Config.capTag s.keyEpoch r.job (cap.toNat % 1024) (cap.extractLsb' 10 6) (cap.extractLsb' 16 32)).toNat
      let away := 576 ≤ cap.toNat % 1024 ∨ u.owner ≠ .job r.job ∨ u.tenure.toNat ≠ cap.toNat / 2 ^ 16 % 2 ^ 32 ∨ u.dying = true
        ∨ ∃ e, u.cess = some e ∧ e.wiping ≠ none
      let lacks := cap.getLsbD (10 + k) = false
      k < 6 →
      (null → s.capReason r cap (some k) = some 1)
      ∧ (¬ null → away → s.capReason r cap (some k) = some 2)
      ∧ (¬ null → ¬ away → lacks → s.capReason r cap (some k) = some 3)
      ∧ (¬ null → ¬ away → ¬ lacks → ∀ g : Gang, s.runGang r = some g →
        s.capReason r cap (some k) = if g.desc.cls = 2 ∧ g.rootOn (cap.toNat % 1024) = true then none else some 4)))
  ∧ (∀ (s : State) (n : Nat) (r : Run) (x : MMsg), (s.tile n).msg = some x → (s.tile n).run = some r →
    let q := x.cap.toNat % 1024
    let i := decode x.w
    let answers (k : Nat) (u : State) := { u.tile n with
      msg := none
      run := some { r with verdict := some k } }
    (∀ k, s.capReason r x.cap (i.bind cmdRight) = some k → exec (.mcmdArrival n) s = .next (s.setTile n (answers k s)))
    ∧ (s.capReason r x.cap (i.bind cmdRight) = none →
      ((x.bad = true ∨ ∀ j, i = some j → cmdRight j = none ∨ cmdShape j = false) → exec (.mcmdArrival n) s = .next (s.setTile n (answers 5 s)))
      ∧ ∀ j, x.bad = false → i = some j → (cmdRight j).isSome = true → cmdShape j = true → (s.tile q).mq.length < 6 →
        let op := cmdOp (!r.sup) (s.spSize q) (s.tile q) x.op0 x.op1 j
        (∀ e, op.2.2 = .error e → e ≠ .poison → exec (.mcmdArrival n) s = .next (s.setTile n (answers 6 s)))
        ∧ (∀ (t' : Tile) (f : Fl), op.2.2 = .ok (t', f) → s.cmdHeld r q op.1 = false → (s.tile q).mqBad = false → n ≠ q →
          ∃ s' : State, exec (.mcmdArrival n) s = .next s' ∧ s'.tile n = answers 0 s ∧ s'.mem = s.mem
            ∧ (s'.tile q).mat = t'.mat ∧ (s'.tile q).sp = (t'.stick f).sp ∧ (s'.tile q).mq = t'.mq ++ [⟨some (r.rcd.fp.toNat + 0x17C0)⟩])))
  ∧ (∀ (s : State) (n m : Nat) (x y : MSwap), n ≠ m → (s.tile n).swap = some x → (s.tile m).swap = some y → x.partner = m → y.partner = n →
    let t := s.tile n
    let u := s.tile m
    let ended (v : Tile) (made : Bool) := { v with
      swap := none
      run := v.run.map (fun (r : Run) => { r with swapped := some made }) }
    (x.len ≠ y.len → exec (.mswapMatch n m) s = .next ((s.setTile n (ended t false)).setTile m (ended u false)))
    ∧ (x.len = y.len → t.spBad x.send x.len = false → u.spBad y.send y.len = false →
      exec (.mswapMatch n m) s = .next ((s.setTile n (ended (t.storeSp x.recv (u.taskBytes y.send y.len)) true)).setTile m
        (ended (u.storeSp y.recv (t.taskBytes x.send x.len)) true))))
  ∧ (∀ (t : Tile) (o : Nat) (bs : List Byte) (n k : Nat), k < n →
    (t.keptApart o bs.length → t.storeSp o bs = t.putSp o bs)
    ∧ ((t.taskBytes o n)[k]? = some (if t.base + 0x1518 ≤ o + k ∧ o + k < t.base + 0x1800 ∧ ∀ r, t.run = some r → r.sup = false
      then 0 else t.sp.get (o + k))))

/-! Launch ports and graphs (events). -/

/-- R40 to R43: OPEN opens a closed stream with TAIL 0 and HEAD 1; CLOSE waits at the front until HEAD is TAIL + 1 and then closes
the stream, every command behind it being rejected; a command out of place or with fields that are not zero is rejected with 0x10D; one whose STATADDR cannot take a
record is dropped and counts in BADWR. LAUNCH gives the next GANG value and the next ticket of its stream to a gang of what it
copied, or is rejected with the lowest code that applies.
(That a non-zero ADDR of OPEN and CLOSE is rejected with 0x10D, that the status of a rejected LAUNCH names the port's stream, and
that every command behind a CLOSE gets STREAM_NOT_OPEN are the model's, log 109.) -/
def Obligations.LaunchPorts : Prop :=
  ∀ (s : State) (job sn : Nat) (j : Job) (c : List Byte), s.job? job = some j → s.front job sn = some c →
    let x := j.stream sn
    let code := fieldAt c 8 1
    let stat := fieldAt c 24 8
    let good := stat = 0 ∨ (stat % 32 = 0 ∧ stat < 2 ^ 60)
    let clean := fieldAt c 9 7 = 0 ∧ fieldAt c 32 32 = 0
    let plain := clean ∧ fieldAt c 0 8 = 0
    let say (u : State) (k g tk : Nat) := u.writeStatus job sn stat k g tk (fieldAt c 16 8)
    let popped := s.setJob job (j.setStream sn x.pop)
    let served (y : Stream) := s.setJob job (j.setStream sn y)
    (good → code = 3 →
      (plain → x.opened = false → exec (.portOpen job sn) s = .next (say (served { x.pop with
        opened := true
        tail := 0
        head := 1
        epoch := x.epoch + 1
        lost := [] }) 0 0xFFFFFFFF 0))
      ∧ (x.opened = true ∨ ¬ plain → exec (.portOpen job sn) s = .next (say popped 0x10D 0xFFFFFFFF 0)))
    ∧ (good → code = 4 →
      (x.opened = true → plain → exec (.portClose job sn) s = .next s
        ∧ (x.head = x.tail + 1 → ∃ (t : State) (jt : Job), exec (.closeComplete job sn) s = .next t ∧ t.job? job = some jt
          ∧ (jt.stream sn).opened = false ∧ (jt.stream sn).queue = [] ∧ (jt.stream sn).overflow = []
          ∧ (∀ n, n ≠ sn → jt.stream n = j.stream n)
          ∧ (x.queue.length ≤ 1 → x.overflow = [] → t = say (served { x.pop with opened := false }) 0 0xFFFFFFFF 0))
        ∧ (x.head ≠ x.tail + 1 → exec (.closeComplete job sn) s = .next s))
      ∧ (x.opened = false ∨ ¬ plain → exec (.portClose job sn) s = .next (say popped 0x10D 0xFFFFFFFF 0)))
    ∧ (good → code ∉ [1, 2, 3, 4] → exec (.portClose job sn) s = .next (say popped 0x10D 0xFFFFFFFF 0))
    ∧ (¬ good →
      let out : Host.Outcome State Fault Refusal := .next (served { x.pop with badwr := if x.badwr = BitVec.allOnes 32 then x.badwr else x.badwr + 1 })
      (code = 1 → exec (.portLaunch job sn) s = out) ∧ (code = 2 → exec (.portGraph job sn) s = out)
      ∧ (code = 3 → exec (.portOpen job sn) s = out) ∧ (code ∉ [1, 2, 3] → exec (.portClose job sn) s = out))
    ∧ (good → code = 1 → ∀ (codes : List Nat) (l : Option Launch),
      s.readLaunch job j (fieldAt c 0 8) 0 (fun _ => 0) = (codes, l) →
      let applies (k : Nat) := k ∈ codes ∨ (k = 0x104 ∧ x.opened = false)
        ∨ (k = 0x105 ∧ ∃ d, s.descrAt job (fieldAt c 0 8) = some d ∧ d.stream ≠ sn)
        ∨ (k = 0x10D ∧ ¬ clean)
      (∀ k, applies k → (∀ m, applies m → k ≤ m) →
        exec (.portLaunch job sn) s = .next (say popped k 0xFFFFFFFF 0))
      ∧ (∀ m : Launch, (∀ k, ¬ applies k) → l = some m →
        let gid := j.launches % 0xFFFFFFFF
        ∃ (s1 : State) (j1 : Job) (g : Gang), exec (.portLaunch job sn) s = .next (say s1 0 gid (x.tail + 1))
          ∧ s1.mem = s.mem ∧ s1.job? job = some j1 ∧ j1.launches = j.launches + 1
          ∧ j1.stream sn = { x.pop with tail := x.tail + 1 } ∧ (∀ n, n ≠ sn → j1.stream n = j.stream n)
          ∧ j1.gang? gid = some g ∧ g.desc = m.desc ∧ g.foot = m.foot ∧ g.code = m.code ∧ g.consts = m.consts ∧ g.stream = sn
          ∧ g.ticket = x.tail + 1 ∧ g.phase = .waiting ∧ g.dispatched = false ∧ g.tasks = [] ∧ g.ctag = fieldAt c 16 8 ∧ g.stat = stat))

/-- R42, R49 to R52: a GRAPH command that no check rejects waits at the front for counters; once they are free every node takes, in
one step and in order, a GANG value and a ticket of its stream, and its counter is its NPRED; the status names node 0. What
descriptors are checked against.
(That the status of a rejected GRAPH names the port's stream is the model's, log 109.) -/
def Obligations.GraphsAndChecks : Prop :=
  (∀ (s : State) (job sn : Nat) (j : Job) (c : List Byte), s.job? job = some j → s.front job sn = some c → fieldAt c 8 1 = 2 →
    let stat := fieldAt c 24 8
    stat = 0 ∨ (stat % 32 = 0 ∧ stat < 2 ^ 60) →
    ∀ (codes : List Nat) (ls : List (TNode × Launch)), s.readGraph job j c sn = (codes, ls) →
    (∀ k, k ∈ codes → (∀ m ∈ codes, k ≤ m) → exec (.portGraph job sn) s =
      .next ((s.popPort job sn).writeStatus job sn stat k 0xFFFFFFFF 0 (fieldAt c 16 8)))
    ∧ (codes = [] → exec (.portGraph job sn) s = .next s
      ∧ (s.countersFree j < ls.length → exec (.graphInstantiate job sn) s = .next s)
      ∧ (ls ≠ [] → ls.length ≤ s.countersFree j → ∃ (s1 : State) (j1 : Job) (g : Graph) (n0 : GNode),
        exec (.graphInstantiate job sn) s = .next (s1.writeStatus job n0.stream stat 0 n0.gang n0.ticket (fieldAt c 16 8))
        ∧ s1.mem = s.mem ∧ s1.job? job = some j1 ∧ j1.launches = j.launches + ls.length ∧ j1.graphs = j.graphs ++ [g]
        ∧ g.template = fieldAt c 0 8 ∧ g.ctag = fieldAt c 16 8 ∧ g.stat = stat ∧ g.nodes.head? = some n0
        ∧ g.nodes.length = ls.length
        ∧ (∀ (i : Nat) (n : GNode) (l : TNode × Launch), g.nodes[i]? = some n → ls[i]? = some l →
          n.gang = (j.launches + i) % 0xFFFFFFFF ∧ n.stream = l.2.desc.stream ∧ n.succs = l.1.succs ∧ n.count = l.1.npred ∧ n.ended = none
          ∧ n.ticket = (j.stream n.stream).tail + 1 + (ls.take i).countP (fun e => decide (e.2.desc.stream = n.stream)))
        ∧ ∀ k, (j1.stream k).tail = (j.stream k).tail + ls.countP (fun e => decide (e.2.desc.stream = k)))))
  ∧ (∀ (s : State) (j : Job) (d : Desc) (more ahead : Nat),
    let has (k : Nat) := k ∈ s.descCodes j d more ahead
    (has 0x103 ↔ s.ceilPrio j < d.prio)
    ∧ (has 0x104 ↔ (j.stream d.stream).opened = false ∨ (d.aftv = true ∧ (j.stream d.afts).opened = false))
    ∧ (has 0x106 ↔ d.cls = 2 ∧ ∀ p, s.polder? j.polder = some p → j.ceil < d.ntask ∨ 36 * p.quads.length < d.ntask
      ∨ (d.shape = 1 ∧ (6 * (p.qx1 + 1 - p.qx0) < d.shw ∨ 6 * (p.qy1 + 1 - p.qy0) < d.shh)))
    ∧ (has 0x107 ↔ d.cls ≠ 2 ∧ d.bars ≠ 0)
    ∧ (has 0x108 ↔ ∃ g, j.gang? ((j.launches + more) % 0xFFFFFFFF) = some g ∧ (g.phase = .waiting ∨ g.phase = .running ∨ g.phase = .retired))
    ∧ (has 0x109 ↔ 2 ^ 48 ≤ (j.stream d.stream).tail + ahead + 1))
  ∧ (∀ (fs : List Foot) (rs : List Region),
    let apart (a n b m : Nat) : Prop := a + n ≤ b ∨ b + m ≤ a
    footsApart rs fs = true ↔ (∀ (i k : Nat) (f g : Foot), i < k → fs[i]? = some f → fs[k]? = some g → apart f.base f.len g.base g.len)
      ∧ ∀ f ∈ fs, apart f.base f.len 0x0FFFFFFFFFFFE000 8192 ∧ ∀ q ∈ rs, q.len = 0 ∨ apart f.base f.len q.base q.len)

/-- R377 to R380: a collective command that keeps its limits takes the next ticket of its stream and GANG 0xFFFF_FFFF, one that breaks
them is rejected with 0x100; at the head of its stream a collective reads SRC; a child's subtree is kept, and Sub(i) folds the
own elements with the children's in order; once it may end it writes DST and HEAD moves past it. A failed one writes nothing. A
message of the k-th collective of a group goes to the rank's k-th, or waits until the rank has issued it; one of a command with
other fields fails it.
(What a message names, that early ones are kept and that one with other fields fails the command are the model's, log 44.) -/
def Obligations.Collectives : Prop :=
  (∀ (s : State) (job sn : Nat) (j : Job) (c : List Byte), s.job? job = some j → s.collFront job sn = some c →
    let x := j.stream sn
    let stat := fieldAt c 24 8
    let op := fieldAt c 36 1
    let popped := s.setJob job (j.setStream sn { x with cqueue := x.cqueue.drop 1 })
    let say (u : State) (k tk : Nat) := u.writeStatus job sn stat k 0xFFFFFFFF tk (fieldAt c 16 8)
    let serves (q : Host.Outcome State Fault Refusal → Prop) :=
      (op ≠ 2 → op ≠ 3 → q (exec (.collectiveAllreduce job sn) s)) ∧ (op = 2 → q (exec (.collectiveReduce job sn) s))
      ∧ (op = 3 → q (exec (.collectiveBroadcast job sn) s))
    (stat = 0 ∨ (stat % 32 = 0 ∧ stat < 2 ^ 60)) →
    (s.collOk job c = false → serves (fun o => o = .next (say popped 0x100 0)))
    ∧ (s.collOk job c = true → x.opened = false → serves (fun o => o = .next (say popped 0x104 0)))
    ∧ (s.collOk job c = true → x.opened = true → 2 ^ 48 - 1 ≤ x.tail → serves (fun o => o = .next (say popped 0x109 0)))
    ∧ (s.collOk job c = true → x.opened = true → x.tail < 2 ^ 48 - 1 → ∀ g : Group, s.group? (fieldAt c 40 2) = some g → g.early = [] →
      serves (fun o => ∃ s' : State, o = .next s' ∧
        let u := s.setJob job { j.setStream sn { x with
            cqueue := x.cqueue.drop 1
            tail := x.tail + 1 } with
          colls := j.colls ++ [{
            stream := sn
            ticket := x.tail + 1
            cmd := c
            group := fieldAt c 40 2
            k := g.issued + 1
            failed := g.lost }] }
        s'.jobs = (say u 0 (x.tail + 1)).jobs ∧ s'.mem = (say u 0 (x.tail + 1)).mem)))
  ∧ (∀ (s : State) (job sn : Nat) (j : Job) (c : Coll) (g : Group), s.job? job = some j → s.headColl job sn = some c →
    s.group? c.group = some g → s.dhq = [] →
    let reads := fieldAt c.cmd 36 1 ≠ 3 ∨ g.rank = 0
    let sz := c.ty.bits / 8
    let src := fieldAt c.cmd 0 8
    let die := s.jobSite job
    (c.started = false → c.failed = false →
      (reads → s.devBad job die src (c.count * sz) accLoad = false → ∀ (s1 : State) (bs : List Byte),
        s.devRead job die src (c.count * sz) accLoad = .ok (s1, bs) →
        ∃ (s' : State) (j' : Job), exec (.collectiveStart job sn) s = .next s' ∧ s'.job? job = some j'
          ∧ (∃ d ∈ j'.colls, d.stream = c.stream ∧ d.ticket = c.ticket)
          ∧ ∀ d ∈ j'.colls, d.stream = c.stream → d.ticket = c.ticket → d.started = true ∧ d.cmd = c.cmd
            ∧ d.own = (List.range c.count).map (fun i => word (leVal ((bs.drop (i * sz)).take sz))))
      ∧ (¬ reads → ∃ (s' : State) (j' : Job), exec (.collectiveStart job sn) s = .next s' ∧ s'.job? job = some j'
        ∧ ∃ d ∈ j'.colls, d.stream = c.stream ∧ d.ticket = c.ticket ∧ d.started = true ∧ d.own = []))
    ∧ (c.failed = true → c.announced = false → exec (.collectiveCommit job sn) s = .next (s.failColl job c))
    ∧ (c.started = true → c.announced = true → ∀ v : List Word, c.result = some v → ∀ s1 : State,
      (if fieldAt c.cmd 36 1 ≠ 2 ∨ g.rank = 0 then s.devWrite job die (fieldAt c.cmd 8 8) accStore (v.flatMap (fun w => leBytes sz w.toNat))
        else .ok s) = .ok s1 →
      ∃ s' : State, exec (.collectiveCommit job sn) s = .next s'
        ∧ s'.mem = (((s1.dhDrain.dropColl job c).fixHead job sn).writeStatus job sn c.stat 1 0xFFFFFFFF c.ticket c.tag).mem
        ∧ ∃ j', s'.job? job = some j' ∧ (∀ d ∈ j'.colls, d.stream = c.stream → d.ticket ≠ c.ticket)
          ∧ ((∀ e ∈ j.gangs, e.2.stream = sn → e.2.ticket = c.ticket → e.2.live = false) → c.ticket ≤ (j.stream sn).tail →
            c.ticket < (j'.stream sn).head))
    ∧ (c.failed = false → c.announced = false → exec (.collectiveCommit job sn) s = .next s))
  ∧ (∀ (s : State) (num : Nat) (g : Group) (j : Job) (c : Coll) (rest : List Coll), s.group? num = some g → s.job? g.job = some j →
    j.colls = c :: rest → c.group = num → c.k ≤ g.issued → (∀ d ∈ rest, d.group ≠ num ∨ d.k ≠ c.k) →
    let sig : CollSig := ⟨fieldAt c.cmd 36 1, fieldAt c.cmd 37 1, fieldAt c.cmd 38 1, fieldAt c.cmd 39 1, fieldAt c.cmd 32 4⟩
    let gets (sg : CollSig) (m : CollMsg) (q : Coll → Prop) := ∃ (s' : State) (j' : Job) (d : Coll),
      exec (.collectiveMessageArrival num ⟨c.k, sg, m⟩) s = .next s'
      ∧ s'.job? g.job = some j' ∧ j'.colls = d :: rest ∧ d.cmd = c.cmd ∧ d.own = c.own ∧ d.started = c.started ∧ q d
    (∀ (k : Nat) (v : List Word), c.announced = false → fieldAt c.cmd 36 1 ≠ 3 → (∀ e ∈ c.subs, e.1 ≠ k) →
      gets sig (.subtree k v) (fun d => d.subs = c.subs ++ [(k, v)]))
    ∧ (∀ v : List Word, c.result = none → gets sig (.result v) (fun d => d.result = some v))
    ∧ (∀ k, k ∉ c.acks → gets sig (.ack k) (fun d => k ∈ d.acks))
    ∧ (c.announced = false → gets sig .announce (fun d => d.announced = true))
    ∧ (c.announced = false → c.failed = false → gets sig .failed (fun d => d.failed = true))
    ∧ (c.announced = false → c.failed = true → ∀ (sg : CollSig) (m : CollMsg), m ≠ .announce → gets sg m (fun d => d.announced = false ∧ d.failed = true))
    ∧ (∀ (sg : CollSig) (m : CollMsg), sg ≠ sig → c.announced = false → gets sg m (fun d => d.failed = true))
    ∧ (∀ (k : Nat) (sg : CollSig) (m : CollMsg), g.issued < k → ∃ (s' : State) (g' : Group),
      exec (.collectiveMessageArrival num ⟨k, sg, m⟩) s = .next s' ∧ s'.group? num = some g' ∧ g'.early = g.early ++ [⟨k, sg, m⟩]
      ∧ ∃ j', s'.job? g.job = some j' ∧ j'.colls = j.colls))
  ∧ (∀ (c : Coll) (i n : Nat), c.started = true →
    let step (a b : List Word) := (a.zip b).map (fun e => word (redStep c.rop c.ty c.md e.1.toNat e.2.toNat))
    let has (k : Nat) (v : List Word) := c.subs.find? (fun e => decide (e.1 = k)) = some (k, v)
    (n ≤ 2 * i + 1 → c.sub i n = some c.own)
    ∧ (∀ v, n = 2 * i + 2 → has (2 * i + 1) v → c.sub i n = some (step c.own v))
    ∧ (∀ v w, 2 * i + 2 < n → has (2 * i + 1) v → has (2 * i + 2) w → c.sub i n = some (step (step c.own v) w))
    ∧ (2 * i + 1 < n → c.subs.find? (fun e => decide (e.1 = 2 * i + 1)) = none → c.sub i n = none))

/-! Scheduling (events). -/

/-- R34, R44 to R48, R52, R72: a gang becomes ready at the instant no wait of it is left; every 32 cycles a dispatcher selects a
candidate of the greatest EP, of its job the one first before the others, and releases its roots to the tiles that may work, or,
for a CONCURRENT gang, puts it among those that wait for tiles; at the first instant its tiles are all free, and no gang of its job
of greater EP waits for its own, they are asked for, and once they are clear its roots go to them.
(That a CONCURRENT gang counts as dispatched from its selection is the model's, log 110; that a tile which is ceding or marked dead is
not among those chosen, log 120.) -/
def Obligations.GangScheduling : Prop :=
  (∀ (s : State) (job gid : Nat) (j : Job) (g : Gang), s.job? job = some j → j.gang? gid = some g → g.phase = .waiting → g.readyAt = none →
    let shares (a b : Foot) : Prop := a.base < b.base + b.len ∧ b.base < a.base + a.len
    let aft := g.desc.aftv = true ∧ g.aftDone = false
    let inFree := ∀ e ∈ j.gangs, e.2.live = true → e.2.stream = g.stream → e.2.ticket < g.ticket → ∀ a ∈ e.2.foot, ∀ b ∈ g.foot,
      (a.kind = .out ∨ a.kind = .inout) → (b.kind = .inp ∨ b.kind = .inout) → ¬ shares a b
    let privFree := ∀ e ∈ j.gangs, (e.2.phase = .waiting ∨ e.2.phase = .running) → e.2.born < g.born → ∀ a ∈ e.2.foot, ∀ b ∈ g.foot,
      (a.kind = .priv ∨ b.kind = .priv) → ¬ shares a b
    let nodeFree := ∀ inst n, g.node = some (inst, n) → ∀ x, j.graphs.find? (fun (x : Graph) => decide (x.id = inst)) = some x →
      ∀ d, x.nodes[n]? = some d → d.count = 0
    let broken := (j.stream g.desc.afts).opened = false ∨ (j.stream g.desc.afts).epoch ≠ g.aftEpoch
      ∨ g.desc.afttk ∈ (j.stream g.desc.afts).lost ∨ ∃ e ∈ j.gangs, e.2.stream = g.desc.afts ∧ e.2.opening = g.aftEpoch ∧ e.2.ticket = g.desc.afttk ∧ e.2.phase = .voided
    (¬ aft → inFree → privFree → nodeFree →
      exec (.gangReady job gid) s = .next (s.setJob job (j.setGang gid { g with readyAt := some s.ccy.toNat })))
    ∧ (aft → broken → exec (.gangReady job gid) s = .next (s.contain job gid 0x201))
    ∧ (¬ (aft ∧ broken) → aft ∨ ¬ inFree ∨ ¬ privFree ∨ ¬ nodeFree → exec (.gangReady job gid) s = .next s))
  ∧ (∀ (s : State) (q : Nat) (p : Polder), s.polder? q = some p →
    let cs := s.candidates q p
    (s.ccy.toNat < p.lastSel + 32 ∨ cs = [] → exec (.dispatchSelection q) s = .next s)
    ∧ (p.lastSel + 32 ≤ s.ccy.toNat → cs ≠ [] → ∃ c ∈ cs, ∃ rot : AMap (Nat × Nat), (∀ d ∈ cs, d.ep ≤ c.ep
        ∧ (d.ep = c.ep → d.job = c.job → ¬ (d.readyAt < c.readyAt ∨ (d.readyAt = c.readyAt ∧
          (d.stream < c.stream ∨ (d.stream = c.stream ∧ d.ticket < c.ticket))))))
      ∧ exec (.dispatchSelection q) s = .next ((s.setPolder q { p with
        lastSel := s.ccy.toNat
        rot := rot }).dispatch q c)))
  ∧ (∀ (s : State) (q : Nat) (c : Cand) (j : Job) (g : Gang), s.job? c.job = some j → j.gang? c.gid = some g →
    let s' := s.dispatch q c
    (g.desc.cls = 2 → (∀ p, s.polder? q = some p → ∃ p', s'.polder? q = some p' ∧ p'.waitPlace = p.waitPlace ++ [(c.job, c.gid)])
      ∧ ∃ g', s'.gang? c.job c.gid = some g' ∧ g'.dispatched = true ∧ g'.phase = g.phase)
    ∧ (g.desc.cls ≠ 2 → (∀ n, (s.tile n).owner = .job c.job → (s.tile n).cess = none → (s.tile n).dying = false → (s.tile n).strip = 0 →
        (n, s.tile n) ∈ s.tiles →
        ∃ g', s'.gang? c.job c.gid = some g' ∧ g'.dispatched = true ∧ g'.phase = .running ∧ g'.age = s.ageOf j g
          ∧ g'.tasks.length = g.desc.ntask
          ∧ ∀ i, i < g.desc.ntask → ∃ m x, x ∈ (s'.tile m).deque ∧ (∃ e ∈ s.tiles, e.1 = m ∧ e.2.owner = .job c.job) ∧ (s.tile m).strip = 0
            ∧ x.cp = g.desc.entry ∧ x.fp = word (g.desc.frameb + i * 0x1800) ∧ x.gang = BitVec.ofNat 32 c.gid ∧ x.jc = 0 ∧ x.live = 0
            ∧ x.stage = 0 ∧ x.parent = 0 ∧ x.seq = 0 ∧ x.lin = rootLin (rootWidth g.desc.ntask) i)))
  ∧ (∀ (s : State) (job gid : Nat) (j : Job) (g : Gang) (p : Polder), s.job? job = some j → j.gang? gid = some g →
    s.polder? j.polder = some p → (job, gid) ∈ p.waitPlace → g.phase = .waiting →
    let barred := ∃ e ∈ p.waitPlace, e.1 = job ∧ ∃ h, j.gang? e.2 = some h ∧ h.placing = 0 ∧ s.epOf j g < s.epOf j h
    (g.placing = 0 → barred ∨ s.chooseTiles job gid j g = none → exec (.concurrentPlacement job gid) s = .next s)
    ∧ (g.placing = 0 → ¬ barred → ∀ ns, s.chooseTiles job gid j g = some ns → ∃ (s' : State) (g' : Gang),
      exec (.concurrentPlacement job gid) s = .next s' ∧ s'.gang? job gid = some g' ∧ g' = { g with
          placed := ns
          placing := 1 }
        ∧ ∀ n ∈ ns, ∀ r', (s'.tile n).run = some r' → ∃ x ∈ r'.reqs, x.src = .placement)
    ∧ (g.placing = 1 → (∀ n ∈ g.placed, (s.tile n).run = none ∧ (s.tile n).saved = none ∧ (s.tile n).deque = []) → g.ousted = [] →
      g.placed.Nodup → ∃ (s' : State) (g' : Gang), exec (.concurrentPlacement job gid) s = .next s' ∧ s'.gang? job gid = some g'
        ∧ g'.placed = g.placed ∧ g'.tasks.length = g.desc.ntask
        ∧ (∀ p', s'.polder? j.polder = some p' → (job, gid) ∉ p'.waitPlace)
        ∧ ∀ i n, g.placed[i]? = some n → (s'.tile n).deque = [rootRecord g gid i])
    ∧ (g.desc.shape = 0 → ∀ ns, s.chooseTiles job gid j g = some ns → ns.length = g.desc.ntask
      ∧ ∀ n ∈ ns, (s.tile n).owner = .job job ∧ (s.tile n).dying = false ∧ (s.tile n).cess = none))

/-- R53, R54, R25, R26, R407, R77: a quantum closes once every live task has ended its part, one that nobody has begun, every task
being blocked, only once one of them is blocked no longer (the model's choice, log 107): atomics and decrements are served in lineage
order, one that faults keeps the quantum open, QUANTUM is one more and QCOUNT starts from zero; a PARALLEL task's 65,536th contended cycle asks for its pre-emption; a
tile idle for 4,096 cycles is restricted no more; an idle tile takes the first record of its own deque it may take, else of the
ready queue, and starts it; an evicted one in supervisor mode, with SCODE 0, until the eret that ends its restore (R323, R328). -/
def Obligations.QuantaAndTaking : Prop :=
  (∀ (s : State) (job gid : Nat) (g : Gang), s.gang? job gid = some g →
    let ended := g.phase = .running ∧ g.desc.dsm = true ∧ g.tasks ≠ [] ∧ (∀ x ∈ g.tasks, x.ended = true)
      ∧ (g.dormant = false ∨ ∃ x ∈ g.tasks, x.blocked = false)
    (¬ ended → exec (.quantumClose job gid) s = .next s)
    ∧ (ended → ∃ ts : List TaskInfo, ts.Perm g.tasks ∧ ts.Pairwise (fun a b => (b.key.lt a.key) = false)
      ∧ (∀ s1 : State, State.serveAll job gid ts s = (s1, false) → exec (.quantumClose job gid) s = .next s1)
      ∧ ∀ (s1 s2 : State) (h : Gang), State.serveAll job gid ts s = (s1, true) → State.payAll job gid ts s1 = (s2, true) → s2.gang? job gid = some h → h.phase = .running →
      exec (.quantumClose job gid) s = .next ((s2.nextQuantum job gid).maybeRetire job gid))
    ∧ ((∀ x ∈ g.tasks, x.amo = none ∧ x.owes = none) → ended → ∃ (s' : State) (g' : Gang), exec (.quantumClose job gid) s = .next s'
      ∧ s'.gang? job gid = some g' ∧ g'.quantum = g.quantum + 1 ∧ g'.phase = .running ∧ s'.mem = s.mem
      ∧ g'.tasks.map (·.addr) = g.tasks.map (·.addr) ∧ (∀ x ∈ g'.tasks, x.ended = true → x.blocked = true)
      ∧ (g'.dormant = true ↔ ∀ x ∈ g.tasks, x.blocked = true)
      ∧ ∀ n r, (s.tile n).run = some r → r.job = job → r.gid = gid → (∃ x ∈ g.tasks, x.addr = r.taskAddr ∧ x.blocked = false) →
        s'.tile n = (s.tile n).setCtl cQCOUNT 0))
  ∧ (∀ (s : State) (n : Nat),
    let t := s.tile n
    (∀ r, t.run = some r → 65536 ≤ r.contended → s.concurrentOn n = none → (∀ q ∈ r.reqs, q.src ≠ .quantum) →
      exec (.parallelQuantumExpiry n) s = .next (s.setTile n { t with run := some { r with reqs := r.reqs ++ [⟨.quantum, s.ccy.toNat, []⟩] } }))
    ∧ ((∀ r, t.run = some r → r.contended < 65536) → exec (.parallelQuantumExpiry n) s = .next s)
    ∧ (t.run = none → 4096 ≤ t.idle → exec (.restrictionTimeout n) s = .next (s.setTile n { t with unrestricted := true }))
    ∧ (t.run ≠ none ∨ t.idle < 4096 → exec (.restrictionTimeout n) s = .next s))
  ∧ (∀ (s : State) (n job : Nat) (j : Job), (s.tile n).owner = .job job → s.job? job = some j → (s.tile n).run = none →
    (s.tile n).saved = none → (s.tile n).root = none → (s.tile n).works job = true →
    let t := s.tile n
    let free (xs : List Record) := ∀ x ∈ xs, s.mayTake n job j x = false
    let freeOwn (xs : List Record) := ∀ x ∈ xs, s.mayTakeOwn n job j x = false
    (s.findRecord n job j = none → j.pending = [] → exec (.takeRecord n) s = .next s)
    ∧ (∀ (before after : List Record) (x : Record),
      (s.mayTakeOwn n job j x = true ↔ s.mayTake n job j x = true
        ∨ (x.handler = true ∧ x.depth = x.rootw ∧ s.mayRun n job j x = true))
      ∧ (s.mayTakeOwn n job j x = true → freeOwn before → t.deque = before ++ x :: after →
        s.findRecord n job j = some (x, s.putDeque n (before ++ after))
        ∧ (t.deque.length ≤ 33 → (∀ y ∈ before ++ after, ∀ va, AMap.get? j.images y.addr ≠ some (.mem va)) →
          s.putDeque n (before ++ after) = s.setTile n { t with deque := before ++ after }))
      ∧ (s.mayTake n job j x = true → free before → freeOwn t.deque → j.ready = before ++ x :: after →
        s.findRecord n job j = some (x, s.setJob job { j with ready := before ++ after })))
    ∧ (∀ (x : Record) (s1 s2 : State), j.pending = [] → s.findRecord n job j = some (x, s1) → AMap.get? j.images x.addr = none →
      s1.devBad job (s1.siteOf n) x.fp.toNat (8 * x.live.toNat) accLoad = false →
      s1.startRecord n job x = .ok s2 → s2.concurrentOn n = none → (∀ j', s2.job? job = some j' → j'.pending = []) →
      exec (.takeRecord n) s = .next s2
      ∧ ∃ r, (s2.tile n).run = some r ∧ r.rcd = x ∧ r.job = job ∧ r.pc = x.cp ∧ r.stall = none
        ∧ (x.evicted = true → r.sup = true ∧ r.firm = some .restore ∧ (s2.tile n).sepc = x.cp ∧ (s2.tile n).sstat = 0)
        ∧ (x.evicted = false → r.sup = false ∧ r.firm = none)
        ∧ ((∀ g, s1.recGang job x = some g → g.out = false) → r.reqs = [])
        ∧ (x.seq ≠ 0 → ∀ (s3 : State) (bs : List Byte), s1.devRead job (s1.siteOf n) x.fp.toNat (8 * x.live.toNat) accLoad = .ok (s3, bs) →
          bs.length = 8 * x.live.toNat → 8 * x.live.toNat ≤ 0x1200 →
          ∀ i, i < 0x1200 → (s2.tile n).sp.get ((s2.tile n).base + i) = bs.getD i 0)))

/-- R163, R323 to R327: at a boundary that LATCH allows, or at a stall a request has met for 65,536 cycles, with the tile drained, the
tile takes PREEMPT: SEPC, SSTAT and supervisor mode; the routine then saves the task for its highest request, its record written
back with LIVE 688 and EVICTED at its PC. A CONCURRENT gang takes PREEMPT as a whole. Once saved, the record goes to its frame and
then where the rule of the request's source puts it.
(That the save routine is an event of its own after PREEMPT is the model's, log 9; the room of 393,280 bytes that a matrix state
needs is its reading, log 84; that a tile of its own territory with no cession puts the record at the front of the ready queue is its
choice, log 121.) -/
def Obligations.Preemption : Prop :=
  (∀ (s : State) (n : Nat) (r : Run), s.concurrentOn n = none → (s.tile n).run = some r → r.sup = false → r.firm = none → r.reqs ≠ [] →
    let t := s.tile n
    let old := ∃ q ∈ r.reqs, q.since + 65536 ≤ s.ccy.toNat
    let allowed := t.ctl cLATCH = 0 ∨ ((r.stall ≠ none ∨ s.holds r = true) ∧ old)
    let drained := t.mq = [] ∧ t.msg = none ∧ s.scratchBusy n = false ∧ r.verdict = none ∧ r.swapped = none
    let room := t.matClean = true ∨ (∃ w, t.root = some w ∧ w.mat = none) ∨ s.poolRoom n 393280 = true
    let taken := s.setTile n { t with
      swap := none
      sepc := r.pc
      sstat := 0x1100
      run := some { r with
        sup := true
        firm := some .save } }
    (¬ (allowed ∧ drained ∧ room) → exec (.preempt n) s = .next s ∧ exec (.latchStallTimeout n) s = .next s)
    ∧ (allowed → drained → room → exec (.preempt n) s = .next taken
      ∧ (r.stall ≠ none ∨ s.holds r = true → t.ctl cLATCH ≠ 0 → exec (.latchStallTimeout n) s = .next taken)))
  ∧ (∀ (s : State) (n : Nat) (r : Run), (s.tile n).run = some r → r.sup = true → r.firm = some .save → r.reqs ≠ [] →
    (∀ job gid, s.concurrentOn n = some (job, gid) → ∃ g, s.gang? job gid = some g ∧ n ∈ g.placed) →
    (s.drained n = false → exec (.preempt n) s = .next s)
    ∧ (s.drained n = true → (s.tile n).spBad (s.tile n).base 0x1580 = false → ∃ s' : State, exec (.preempt n) s = .next s'
      ∧ (s'.tile n).run = none ∧ ∃ (w : Saved) (q : PreReq), (s'.tile n).saved = some w
      ∧ q ∈ r.reqs ∧ (∀ x ∈ r.reqs, q.src.rank ≤ x.src.rank) ∧ w.req = q ∧ w.job = r.job ∧ w.pend = r.pend ∧ w.entry = r.vec
      ∧ ((s.tile n).matClean = true → w.matClean = true ∧ w.mat = {})
      ∧ ((s.tile n).matClean = false → ((s.tile n).root = none ∨ ∃ x, (s.tile n).root = some x ∧ x.mat ≠ none) →
        w.matClean = false ∧ w.mat = (s.tile n).mat)
      ∧ (∀ x, (s.tile n).root = some x → x.mat = none → w.mat = {} ∧ (s'.tile n).mat = (s.tile n).mat)
      ∧ w.rcd.cp = r.pc ∧ w.rcd.live = 688 ∧ w.rcd.evicted = true ∧ w.rcd.seq = r.rcd.seq + 1 ∧ w.rcd.fp = r.rcd.fp
      ∧ w.rcd.jc = r.rcd.jc ∧ w.rcd.lin = r.rcd.lin ∧ w.rcd.gang = r.rcd.gang ∧ w.rcd.stage = r.rcd.stage ∧ w.rcd.parent = r.rcd.parent))
  ∧ (∀ (s : State) (n job gid : Nat) (g : Gang), s.concurrentOn n = some (job, gid) → s.gang? job gid = some g → g.placed.Nodup →
    (s.gangMayStop g = true → ∃ s' : State, exec (.preempt n) s = .next s' ∧ (∀ m, m ∉ g.placed → s'.tile m = s.tile m)
      ∧ ∀ m ∈ g.placed, (s'.tile m).run = (s.tile m).run.map (fun r => { r with
          sup := true
          firm := some .save })
        ∧ ∀ r, (s.tile m).run = some r → (s'.tile m).sepc = r.pc ∧ (s'.tile m).sstat = 0x1100)
    ∧ (s.gangMayStop g = false → g.placing ≠ 1 → (∀ r, (s.tile n).run = some r → r.firm ≠ some .save) → exec (.preempt n) s = .next s))
  ∧ (∀ (s : State) (n : Nat) (w : Saved) (s1 : State), s.concurrentOn n = none → (s.tile n).saved = some w →
    (∀ j, s.job? w.job = some j → w.rcd.addr ∉ j.blocked) → s.writeBack n w.job w.rcd = .ok s1 →
    ∃ s2 : State, exec (.preemptCopyOut n) s = .next (s2.requeue n w w.rcd) ∧ s2.mem = s1.mem ∧ (s2.tile n).run = none
      ∧ (s2.tile n).saved = none ∧ (w.matClean = false → w.req.src ≠ .quantum → ∀ j, s1.job? w.job = some j → ∃ j', s2.job? w.job = some j'
        ∧ j'.pool = j.pool ++ [(w.rcd.addr, w.mat)]))
  ∧ (∀ (s : State) (n : Nat) (w : Saved) (x : Record) (j : Job), s.job? w.job = some j → j.ready.length < j.readyQN → j.pending = [] →
    let ready (q : List Record) := ∃ j', (s.requeue n w x).job? w.job = some j' ∧ j'.ready = q
    (w.req.src = .quantum → s.stays w = false → ready (j.ready ++ [x]))
    ∧ (w.req.src = .test ∨ w.req.src = .upcall ∨ (w.req.src = .territory ∧ (s.tile n).cess = none) → ready (x :: j.ready))
    ∧ (w.req.src = .dispatch → (∀ y ∈ (s.tile n).deque, y.gang.toNat ∉ w.req.gangs) →
      ((s.requeue n w x).tile n).deque = x :: (s.tile n).deque))

/-! Territory (events). -/

/-- R63 to R73, R78, R339: PRES moves an eighth of the way to the tile's load; at a phase the tiles of a class are decided in turn: the
best claim that outdoes the owner by HYST moves a tile whose ring leaves its territory whole, and is refused otherwise; a cession
evicts, wipes from its eviction's end, and is transferred with one more TENURE after the wipe; one too late is given up. A dead
tile stops, and at its phase's end belongs to no one.
(A wipe of 4,096 cycles that ends with the transfer, log 33, PRES of a tile marked dead, log 112, and which waiting gang gives
WAITC, log 43, are the model's.) -/
def Obligations.Territory : Prop :=
  (∀ s : State, s.timers.pres < s.ccy.toNat / 1024 → ∃ s' : State, exec .presUpdate s = .next s' ∧ s'.timers.pres = s.ccy.toNat / 1024
    ∧ ∀ n, s'.tile n = { s.tile n with pres := (s'.tile n).pres } ∧ ((∀ jid, (s.tile n).owner ≠ .job jid) → (s'.tile n).pres = 0)
      ∧ ∀ jid j, s.timers.pres + 1 = s.ccy.toNat / 1024 → (s.tile n).owner = .job jid → s.job? jid = some j →
        let p : Int := (s.tile n).pres.toNat
        let d : Int := (min 255 ((s.tile n).deque.length + s.waitc jid j) : Nat)
        ((s'.tile n).pres.toNat : Int) = p + (d * 256 - p) / 8)
  ∧ (∀ s : State, s.timers.phase < s.ccy.toNat / 16384 →
    let k := s.ccy.toNat / 16384
    let s1 := { s with timers := { s.timers with phase := k } }
    let s2 := if k % 9 = 0 then s1.latchRound else s1
    exec .borderPhaseStart s = .next (s2.admitJobs.polders.foldl (fun u e => u.borderMoves e.1 (k % 9) (16384 * k) e.2) s2.admitJobs))
  ∧ (∀ (s : State) (p : Polder) (d : Deciding) (n b : Nat) (jb : Job), (s.tile n).owner = .job b → s.job? b = some jb →
    (s.tile n).dying = false → (s.tile n).cess = none →
    let e := (s.tile n).pres.toNat * 256 / jb.weightOf
    let cnt (a : Nat) := AMap.getD d.counts a 0
    let good (c : Claim) := c ∈ s.claimsOn n ∧ e + p.bordercfg.toNat % 2 ^ 24 ≤ c.e ∧ (∃ a, s.job? c.job = some a ∧ cnt c.job < a.ceil)
      ∧ jb.floor < cnt b ∧ s.hostsConcurrent n = false ∧ (s.tile n).tenure ≠ BitVec.allOnes 32
    ((∀ c, ¬ good c) → s.decideTile p d n = d)
    ∧ ((∃ c, good c) → t4Of (s.ringMarks n b) ≠ 1 → s.decideTile p d n = { d with refused := d.refused ++ [b] })
    ∧ ((∃ c, good c) → t4Of (s.ringMarks n b) = 1 → ∃ c, good c ∧ (∀ c', good c' → c'.e < c.e ∨ (c'.e = c.e ∧ c.tile ≤ c'.tile))
      ∧ (s.decideTile p d n).moves = d.moves ++ [(n, c)] ∧ (s.decideTile p d n).refused = d.refused
      ∧ (c.job ≠ b → AMap.getD (s.decideTile p d n).counts b 0 = cnt b - 1
        ∧ AMap.getD (s.decideTile p d n).counts c.job 0 = cnt c.job + 1)))
  ∧ (∀ (s : State) (start n : Nat) (c : Claim) (b : Nat), (s.tile n).owner = .job b → ∃ z : Cession, z.taker = some (c.job, c.tile)
    ∧ z.start = start ∧ z.wiping = none ∧ ((s.startMove start n c).tile n).cess = some z ∧ ((s.startMove start n c).tile n).owner = .job b
    ∧ ∀ r, (s.tile n).run = some r → ∃ r', ((s.startMove start n c).tile n).run = some r' ∧ r'.rcd = r.rcd ∧ ∃ q ∈ r'.reqs, q.src = .territory)
  ∧ (∀ (s : State) (n : Nat) (z : Cession), (s.tile n).cess = some z →
    let t := s.tile n
    (z.taker ≠ none → z.wiping = none → z.start + 12224 < s.ccy.toNat → exec (.cessionAbandon n) s = .next (s.setTile n { t with
      cess := none
      run := t.run.map (fun (r : Run) => { r with reqs := r.reqs.filter (fun q => q.src != .territory) }) }))
    ∧ (z.wiping ≠ none ∨ t.run ≠ none ∨ t.saved ≠ none ∨ t.root ≠ none ∨ s.scratchBusy n = true
        ∨ (z.taker ≠ none ∧ z.start + 12224 < s.ccy.toNat) → exec (.wipeStart n) s = .next s)
    ∧ (z.wiping = none → t.run = none → t.saved = none → t.root = none → s.scratchBusy n = false →
      (z.taker = none ∨ s.ccy.toNat ≤ z.start + 12224) → ∀ b, t.owner = .job b ∨ t.owner = .transit b →
      ∃ (s' : State) (z' : Cession), exec (.wipeStart n) s = .next s' ∧ (s'.tile n).cess = some z' ∧ z'.wiping = some s.ccy.toNat
        ∧ (s'.tile n).owner = .transit b ∧ (s'.tile n).tenure = t.tenure ∧ (s'.tile n).sp = [] ∧ (s'.tile n).mat = {} ∧ (s'.tile n).l1 = []
        ∧ (s'.tile n).deque = [] ∧ (s'.tile n).tlb = [] ∧ (s'.tile n).icache = [] ∧ (s'.tile n).run = none)
    ∧ (∀ w b, z.wiping = some w → t.owner = .transit b → t.tenure ≠ BitVec.allOnes 32 →
      (s.ccy.toNat < w + 4096 → exec (.wipeComplete n) s = .next s)
      ∧ (w + 4096 ≤ s.ccy.toNat → ∃ s' : State, exec (.wipeComplete n) s = .next s' ∧ (s'.tile n).tenure = t.tenure + 1
        ∧ (s'.tile n).cess = none ∧ (s'.tile n).owner = (match z.taker with
          | some a => .job a.1
          | none => .unowned))))
  ∧ (∀ (s : State) (n : Nat), (s.tile n).dying = false → (s.tile n).owner ≠ .dead → ∃ s' : State, exec (.tileDead n) s = .next s'
    ∧ (s'.tile n).dying = true ∧ (s'.tile n).run = none ∧ (s'.tile n).root = none ∧ (s'.tile n).saved = none ∧ (s'.tile n).cess = none)
  ∧ (∀ (s : State) (n : Nat), (s.tile n).dying = true →
    (s.ccy.toNat / 16384 ≤ s.timers.phase → exec (.deadTilePhaseEnd n) s = .next s)
    ∧ (s.timers.phase < s.ccy.toNat / 16384 → ∃ s' : State, exec (.deadTilePhaseEnd n) s = .next s'
      ∧ (s'.tile n).dying = false ∧ (s'.tile n).pres = 0 ∧ ((∀ j, (s.tile n).owner ≠ .job j) → (s'.tile n).owner = .dead)))
  ∧ (∀ (s : State) (job : Nat) (j : Job), s.job? job = some j →
    let passed (x : Split) := ∀ n ∈ x.gone, ∀ b, (s.tile n).owner = .transit b → (s.tile n).tenure = BitVec.allOnes 32
    ((∀ x ∈ j.splits, ¬ passed x) → exec (.splitRelease job) s = .next s)
    ∧ (∀ x rest, j.splits = x :: rest → passed x →
      let u := (s.setJob job { j with splits := rest }).terrUpdate job false (x.dead :: x.gone) 0 (x.gone.length + 1) 0
      let v := match u.job? job with
        | some y => (x.gone.filter (fun n => (u.tile n).owner == Owner.job job)).foldl (fun (w : State) n => w.mapTile y true n) u
        | none => u
      exec (.splitRelease job) s = .next (v.makeUpcall job (if x.gone = [] then 2 else 3) x.dead ((v.tilesOf job).headD 0))))

/-! Retiring and errors (events). -/

/-- R342, R301 to R303, R349, R350, R294, R368, R351, R354: a gang that is its stream's head applies the entries of its oldest batch, one
at a time, in key order, and commits once it is retired and no batch is left; in verify mode it is compared first, and runs once more when the
digests differ. A die-hashed write is applied once its predecessors are; one that comes before them waits at its die. A flush adds local sums to the control block. A
measured gang that has ended a pass starts the next from its launch. (That flits of class 2 are delivered by their numbers, repeats
discarded, is log 114, the comparison of clocks that wrap log 122; that a re-execution waits for the dispatcher again, as a new gang
does, is the model's reading, log 77.) -/
def Obligations.Retiring : Prop :=
  (∀ (s : State) (job gid : Nat) (j : Job) (g : Gang), s.job? job = some j → j.gang? gid = some g →
    let head := (j.stream g.stream).opened = true ∧ (j.stream g.stream).head = g.ticket
    (g.phase = .retired → g.batches = [] → head → (g.desc.digest = 2 → g.verified = true) → g.morePasses = false → g.nodeBatch = none →
      ∃ g' : Gang, exec (.gangDrain job gid) s = .next (s.commitGang job gid g) ∧ (s.commitGang job gid g).gang? job gid = some g'
        ∧ g'.phase = .committed ∧ g'.entries = [] ∧ g'.ticket = g.ticket ∧ g'.digest = (if g.desc.digest = 0 then 0 else g.gangDigest))
    ∧ (g.phase = .running → head → g.desc.digest = 0 → g.morePasses = false → g.nodeBatch = none →
      ∀ b : Batch, g.batches = [b] → b.held = false →
      (∀ (e : Entry) (rest : List Entry) (u : Nat) (mask : BitVec 32) (data : BitVec 256), g.entries = e :: rest →
        (∀ x ∈ rest, x ≠ e) → (∀ x ∈ rest, x.batch = some b.id → Entry.lt e x = true) → e.batch = some b.id → e.eff = .store u mask data →
        ∃ (s' : State) (g' : Gang), exec (.gangDrain job gid) s = .next s' ∧ s'.gang? job gid = some g' ∧ g'.entries = rest
          ∧ g'.batches = [b] ∧ g'.phase = .running ∧ s'.mem = (s.homeWrites (s.jobSites job) (maskedWrites (e.first u) mask data)).mem)
      ∧ ((∀ x ∈ g.entries, x.batch ≠ some b.id) → ∃ (s' : State) (g' : Gang), exec (.gangDrain job gid) s = .next s'
        ∧ s'.gang? job gid = some g' ∧ g'.entries = g.entries ∧ g'.batches = [] ∧ g'.phase = .running ∧ s'.mem = s.dhDrain.mem))
    ∧ (¬ head → g.unverified = false → g.nodeBatch = none → exec (.gangDrain job gid) s = .next s)
    ∧ (∀ (b : Batch) (e : Entry), g.nextDrain j = .entry b e → g.batches.head? = some b ∧ b.held = false ∧ e ∈ g.entries
      ∧ e.batch = some b.id ∧ ∀ x ∈ g.entries, x.batch = some b.id → Entry.lt x e = false)
    ∧ (g.phase = .retired → g.desc.digest = 2 → g.verified = false → ∀ (s1 : State) (bs : List Byte),
      s.devRead job (s.jobSite job) (j.retArea + (256 * g.stream + g.ticket % 256) * 128) 128 accLoad = .ok (s1, bs) →
      let same := fieldAt bs 0 6 = g.ticket ∧ fieldAt bs 6 1 = g.stream ∧ fieldAt bs 7 1 / 16 % 2 = 1
      let fails (k : Nat) := exec (.gangDrain job gid) s = .next (s1.failGang job gid { detail := 7, code := 0x10, tval := k })
      (¬ same → fails 1)
      ∧ (same → fieldAt bs 48 16 = g.gangDigest.toNat →
        exec (.gangDrain job gid) s = .next (s1.setGang job gid { g with
          digest := g.gangDigest
          verified := true }))
      ∧ (same → fieldAt bs 48 16 ≠ g.gangDigest.toNat → g.reexec = true → fails 2)
      ∧ (same → fieldAt bs 48 16 ≠ g.gangDigest.toNat → g.reexec = false → (s1.gang? job gid).isSome = true →
        ∃ (s' : State) (g' : Gang), exec (.gangDrain job gid) s = .next s' ∧ s'.gang? job gid = some g' ∧ g'.phase = .waiting
          ∧ g'.reexec = true ∧ g'.dispatched = false ∧ g'.tasks = [] ∧ g'.entries = [] ∧ g'.applied = [] ∧ g'.quantum = 0))
    ∧ (g.phase = .running → g.tasks = [] → g.morePasses = true → ∀ m : Meas, g.meas = some m →
      ∃ (s' : State) (g' : Gang) (m' : Meas), exec (.measurePassStart job gid) s = .next s' ∧ s'.gang? job gid = some g'
        ∧ g'.meas = some m' ∧ m'.pass = m.pass + 1 ∧ m'.events = m.events ∧ m'.counts.length = m.counts.length + min 4 (m.events.length - 4 * (m.pass - 1))
        ∧ g'.phase = .waiting ∧ g'.dispatched = false ∧ g'.tasks = [] ∧ g'.entries = [] ∧ g'.batches = [] ∧ g'.placed = [] ∧ g'.desc = g.desc)
    ∧ (∃ (s' : State) (j' : Job), exec (.meteringFlush job) s = .next s' ∧ s'.job? job = some j' ∧ j'.flushed = s.ccy.toNat
      ∧ (∀ n, s'.tile n = if (s.tile n).owner = .job job ∨ (s.tile n).owner = .transit job then { s.tile n with meter := [] } else s.tile n)
      ∧ (∀ n k d, s.tiles.filter (fun e => ownedBy e.2.owner job) = [(n, s.tile n)] → (s.tile n).meter = [(k, d)] → 1 ≤ k → k < 64 →
        k ≠ 32 → k ≠ 33 → s'.mem.readLE (j.jcbpa + 0x400 + 8 * k) 8 = min (2 ^ 64 - 1) (s.mem.readLE (j.jcbpa + 0x400 + 8 * k) 8 + d))))
  ∧ (∀ (s : State) (die : Nat),
    (∀ w rest, s.dhq = w :: rest → w.dest % 4 = die → w.at_ = .here ∨ (w.at_ = .sent ∧ s.inSeq w = true) →
      let c := s.clockOf w.dest
      (∀ i, i < 5 → if i = w.origin then w.clock.getD i 0 = c.getD i 0 + 1 else clockAtLeast (c.getD i 0) (w.clock.getD i 0) = true) →
      ∃ s' : State, exec (.dieHashedWriteArrival die) s = .next s'
        ∧ s' = { { s with dhq := rest }.dhApply w.dest w.origin w.clock w.addr w.bytes w.bad with sluices := s'.sluices })
    ∧ (∀ w, s.dhq = [w] → w.dest % 4 = die → w.at_ = .sent → s.dhDue w = false →
      ∃ s' : State, exec (.dieHashedWriteArrival die) s = .next s' ∧ s'.mem = s.mem
        ∧ s'.dhq = (if s.inSeq w = true then [{ w with at_ := .here }] else if s.isRepeat w = true then [] else [w]))
    ∧ ((∀ w ∈ s.dhq, w.dest % 4 ≠ die) → exec (.dieHashedWriteArrival die) s = .next s))

/-- R330, R333 to R341, R5, R56, R386: an uncorrectable error poisons what it hits and counts, a corrected one only counts;
consumed by a gang it rolls the superstep
back where that is restorable (at the re-placement when the gang has left its tiles) and else fails the gang, whose effects go; a failed lockkeeper or structural error resets the
polder. A test that passes clears the taint log, one that fails makes the tile dead. At 110 °C everything is wiped and powered
down. A package reset leaves the reset state but for what the management core keeps.
(Where corrected and uncorrected errors arise and when they count, log 35, the roll-back at the re-placement, log 96, a test at any
time, log 108, and the one polder of all quadrants that a package reset leaves, log 4, are the model's.) -/
def Obligations.ErrorsAndResets : Prop :=
  (∀ (s : State) (u n : Nat), ∃ s1 s2 : State, exec (.uncorrectableError (.memory u)) s = .next s1 ∧ u ∈ s1.poison ∧ s1.mem = s.mem
    ∧ (∀ k, k ∈ s.poison → k ∈ s1.poison) ∧ s1.tiles = s.tiles
    ∧ exec (.uncorrectableError (.scratchpad n u)) s = .next s2 ∧ u ∈ (s2.tile n).spPoison ∧ (s2.tile n).sp = (s.tile n).sp ∧ s2.poison = s.poison)
  ∧ (∀ (s : State) (u n : Nat), exec (.uncorrectableError (.correctedTile n)) s = .next (s.tileErr n 0)
    ∧ exec (.uncorrectableError (.correctedMemory u)) s = .next (s.memErr (8 * u) 2)
    ∧ exec (.uncorrectableError (.checkerRetry n)) s = .next (s.tileErr n 4)
    ∧ (∃ s' : State, exec (.uncorrectableError (.matrix n u)) s = .next s' ∧ s'.mem = s.mem ∧ (s'.tile n).mat.bytes = (s.tile n).mat.bytes
      ∧ (s'.tile n).sp = (s.tile n).sp ∧ (s'.tile n).mq = (s.tile n).mq ∧ (u < 0xC008 → u ∈ (s'.tile n).mat.bad)
      ∧ (0xC008 ≤ u → (s'.tile n).mqBad = true))
    ∧ ∃ s' : State, exec (.uncorrectableError (.cached n u)) s = .next s' ∧ s'.mem = s.mem ∧ s'.poison = s.poison
      ∧ ∀ (i : Nat) (l : L1Line), (s.tile n).l1[i]? = some l → ∃ l' : L1Line, (s'.tile n).l1[i]? = some l' ∧ l'.data = l.data ∧ l'.key = l.key
        ∧ ∀ b, b < 4 → l'.poison.getLsbD b = (l.poison.getLsbD b || decide (4 * l.key + b = u)))
  ∧ (∀ (s : State) (n : Nat) (r : Run), (s.tile n).run = some r → r.rcd.handler = false → ∀ g : Gang, s.gang? r.job r.rcd.gang.toNat = some g →
    let f : Failure := { detail := 3, code := 0x0F, task := r.rcd.addr, tile := n, seq := r.rcd.seq.toNat }
    (s.tileErr n 1).restorable g = false → (s.tileErr n 1).gang? r.job r.rcd.gang.toNat = some g →
    exec (.uncorrectableError (.task n)) s = .next ((s.tileErr n 1).failGang r.job r.rcd.gang.toNat f))
  ∧ (∀ (s : State) (job gid : Nat) (j : Job) (g : Gang), s.job? job = some j → j.gang? gid = some g →
    let f : Failure := { detail := 3, code := 0x0F }
    (s.restorable g = false → exec (.uncorrectableError (.gang job gid)) s = .next (s.failGang job gid f))
    ∧ (s.restorable g = true → s.standing g = false →
      exec (.uncorrectableError (.gang job gid)) s = .next (s.setGang job gid { g with rollDue := true }))
    ∧ (s.restorable g = true → s.standing g = true → ∃ (s' : State) (g' : Gang), exec (.uncorrectableError (.gang job gid)) s = .next s' ∧ s'.gang? job gid = some g'
      ∧ g'.rolls = g.rolls + 1 ∧ g'.entries = g.entries.filter (fun e => decide (e.step ≠ g.step)) ∧ g'.quantum = g.jquantum
      ∧ g'.bars = g.jbars ∧ g'.gens = g.jgens ∧ g'.norestore = true ∧ ∀ b ∈ s'.barges, b.job = job → b.gang = gid → b.step ≠ g.step)
    ∧ (g.live = true → ∃ g', (s.failGang job gid f).gang? job gid = some g' ∧ g'.phase = .voided ∧ g'.entries = [] ∧ g'.batches = []
      ∧ g'.tasks = []))
  ∧ (∀ (s : State) (quad q : Nat) (p : Polder), s.polderOfQuad quad = some (q, p) → s.polder? q = some p →
    exec (.failedLockkeeper quad) s = .next (s.resetPolder q)
    ∧ exec (.uncorrectableError (.structural quad)) s = .next ((s.polderErr quad 10).resetAt quad)
    ∧ (∀ n, quadOf n ∈ p.quads → let t := (s.resetPolder q).tile n
      t.run = none ∧ t.root = none ∧ t.sp = [] ∧ t.deque = [] ∧ t.l1 = [] ∧ t.mat = {} ∧ t.cess = none ∧ (t.owner = .unowned ∨ t.owner = .dead))
    ∧ ∃ p', (s.resetPolder q).polder? q = some p' ∧ p'.memcfg = p.memNew ∧ p'.waitPlace = [])
  ∧ (∀ (s : State) (n : Nat), let t := s.tile n
    t.dying = false → t.owner ≠ .dead →
    (t.run = none → t.saved = none → t.root = none →
      exec (.infieldTest n true) s = .next (s.setTile n { t with
        testing := none
        taint := []
        tested := s.ccy.toNat })
      ∧ (t.taint = [] → exec (.infieldTest n false) s = .next (s.markDead n)))
    ∧ (∀ (r : Run) (b : Bool), t.run = some r → t.testing = none → ∃ s' : State, exec (.infieldTest n b) s = .next s'
      ∧ (s'.tile n).testing = some b ∧ (s.concurrentOn n = none → ∃ r', (s'.tile n).run = some r' ∧ r'.rcd = r.rcd ∧ ∃ q ∈ r'.reqs, q.src = .test)))
  ∧ (∀ (s : State) (deg : Nat), (deg < 110 → exec (.thermalLimit deg) s = .next s)
    ∧ (110 ≤ deg → ∃ s' : State, exec (.thermalLimit deg) s = .next s' ∧ s'.poweredDown = true ∧ s'.thermal = true ∧ s'.mem = [] ∧ s'.barges = []
      ∧ ∀ n, (s'.tile n).run = none ∧ (s'.tile n).sp = [] ∧ (s'.tile n).deque = []))
  ∧ (∀ (s : State) (disc : List Nat), ∃ s' : State, exec (.packageReset disc) s = .next s' ∧ s'.ccy = 0 ∧ s'.mem = [] ∧ s'.jobs = []
    ∧ s'.poweredDown = false ∧ s'.host = s.host ∧ s'.lifecycle = s.lifecycle ∧ s'.lcseq = s.lcseq ∧ s'.ownerKey = s.ownerKey ∧ s'.thermal = s.thermal
    ∧ s'.keyEpoch = s.keyEpoch + 1 ∧ s'.polders = State.reset.polders ∧ s'.disc.length = 48
    ∧ (∀ n, (s'.tile n).tenure = 0 ∧ (s'.tile n).run = none ∧ (s'.tile n).sp = [])
    ∧ ∀ i k, i < 48 → k < 12 → disc[i]? = some k → s'.disc[i]? = some k)

/-! Functions, host, fabric (events). -/

/-- R209, R257, R259, R284, R357 to R360: FQHEAD lets a held record be posted; a reply is taken once by what awaits it: RETRY drops the
faulting translation and readies the record, DELIVER readies it with the fault pending; an INVCMD queues one of at most 16
invalidations; each drops the entries it names, waits while a staged entry that used one would now go elsewhere, and completes once
the stores of the job's tiles are performed, counts in INVDONE and puts a stage's root in force; DKEYHI sets the digit key of a job
without a live gang.
(That the completion performs every waiting store of the job's tiles, and that an entry is compared with what its page would
translate to now, are the model's choices, log 141.)
(That a reply for a task that waits no longer only clears entries, log 95, and that a frame's reply wakes a task answered
meanwhile, log 42, are the model's readings.) -/
def Obligations.RepliesAndInvalidations : Prop :=
  (∀ (s : State) (f : Nat) (v : Word), let x := s.fn f
    (x.held = [] → exec (.fqheadWrite f v) s = .next (s.setFn f { x with fqhead := v.toNat }))
    ∧ (∀ r, x.held = [r] → x.fqsize ≠ 0 → x.fqtail - v.toNat ≠ x.fqsize → exec (.fqheadWrite f v) s =
      .next ({ s with host := s.host.writeBytes (x.fqbase + 64 * (x.fqtail % x.fqsize)) r }.setFn f { x with
        fqhead := v.toNat
        held := []
        fqtail := x.fqtail + 1
        msix := x.msix ++ (if f = 0 ∧ (r[28]? = some 19 ∨ r[28]? = some 20) then [0, 2] else [0]) }))
    ∧ (x.held ≠ [] → x.fqsize = 0 ∨ x.fqtail - v.toNat = x.fqsize →
      exec (.fqheadWrite f v) s = .next (s.setFn f { x with fqhead := v.toNat }))
    ∧ (let jid := if f = 0 then v.toNat / 256 % 256 else f
      let clean := if f = 0 then v.toNat / 65536 = 0 ∧ v.toNat / 2 % 128 = 0 else v.toNat < 2
      ∀ i : Inval, i.all = v.getLsbD 0 → i.addr = x.invaddr.toNat → i.len = x.invlen.toNat →
      (clean → (s.job? jid).isSome = true → i.job = some jid) → (¬ clean ∨ s.job? jid = none → i.job = none) →
      (x.invHeld = [] → x.invs.length < 16 → exec (.invcmd f v) s = .next (s.setFn f { x with invs := x.invs ++ [i] }))
      ∧ (16 ≤ x.invs.length → (∀ e t, x.invHeld = e :: t → e.1 = 0x3010) →
        exec (.invcmd f v) s = .next (s.setFn f { x with invHeld := x.invHeld ++ [(0x3010, v)] })))
    ∧ (∀ i t, x.invs = i :: t → x.invHeld = [] →
      let hit (y : Xlat) := i.job = some y.job ∧ (i.all = true
        ∨ ∃ k, (if f = 0 then k = y.ipage ∨ k ∈ y.tables else k = y.vpage) ∧ 65536 * k < i.addr + i.len ∧ i.addr < 65536 * k + 65536)
      let u := s.dropXlats (Inval.hits i f)
      let waits := ∃ jid, i.job = some jid ∧ u.usedOld f i jid = true
      (waits → exec (.invalidationComplete f) s = .next u)
      ∧ ((∀ jid j, i.job = some jid → s.job? jid = some j → ∀ g ∈ j.gangs, ∀ e ∈ g.2.entries, ∀ y ∈ e.uses, ¬ hit y) → ¬ waits)
      ∧ (¬ waits → ∃ s' : State, exec (.invalidationComplete f) s = .next s' ∧ s'.fn f = { x with
          invs := t
          invdone := x.invdone + 1 }
        ∧ (∀ n y, y ∈ (s'.tile n).tlb ↔ y ∈ (s.tile n).tlb ∧ ¬ hit y)
        ∧ (∀ q y, y ∈ AMap.getD s'.qtlb q [] ↔ y ∈ AMap.getD s.qtlb q [] ∧ ¬ hit y)
        ∧ (i.job = none → s'.mem = s.mem)
        ∧ (∀ jid, i.job = some jid → s'.mem = (u.performStores jid).mem
          ∧ ∀ n, (s.tile n).owner = .job jid → (s.tile n).l1.Pairwise (fun x y => x.key ≠ y.key) → ∀ l ∈ (s'.tile n).l1, l.dirty = 0)
        ∧ ∀ jid j, i.job = some jid → s.job? jid = some j → ∃ j', s'.job? jid = some j'
          ∧ j'.s2root = (if f = 0 ∧ i.all = true then j.s2new else j.s2root)
          ∧ j'.s1root = (if f ≠ 0 ∧ i.all = true then j.s1new else j.s1root)))
    ∧ (x.invs = [] → exec (.invalidationComplete f) s = .next s))
  ∧ (∀ (s : State) (job : Nat) (j : Job) (v : Word), s.job? job = some j →
    ((∀ e ∈ j.gangs, e.2.live = false) → exec (.dkeyhiWrite job v) s = .next (s.setJob job { j with dkey := v ++ j.dkeylo }))
    ∧ ((∃ e ∈ j.gangs, e.2.live = true) → exec (.dkeyhiWrite job v) s = .next s))
  ∧ (∀ (s : State) (f num : Nat), let x := s.fn f
    ((∀ a ∈ x.awaits, a.num % 2 ^ 32 ≠ num % 2 ^ 32) → exec (.fqreplyRetry f num) s = .next s ∧ exec (.fqreplyDeliver f num) s = .next s)
    ∧ (∀ a rest, x.awaits = a :: rest → a.num % 2 ^ 32 = num % 2 ^ 32 →
      let s1 := s.setFn f { x with awaits := rest }
      let faulting (job : Nat) (y : Xlat) : Bool := decide (y.job = job) &&
        (if a.kind ≤ 2 then decide (y.vpage = a.va / 65536) else decide (y.ipage = a.ia / 65536))
      (∀ job addr, a.target = .task job addr → s.awaits f a.num job addr = false →
        exec (.fqreplyRetry f num) s = .next (s1.dropXlats (faulting job)) ∧ exec (.fqreplyDeliver f num) s = .next s1)
      ∧ (∀ job addr, a.target = .task job addr → s.awaits f a.num job addr = true →
        exec (.fqreplyRetry f num) s = .next ((s1.dropXlats (faulting job)).wake job addr false)
        ∧ ∀ j, s.job? job = some j → (∀ c ∈ j.carry, c.addr ≠ addr) → exec (.fqreplyDeliver f num) s =
          .next ((s1.setJob job { j with carry := j.carry ++ [⟨addr,
            some ⟨if a.kind = 2 ∨ a.kind = 4 then 0x06 else 0x05, word a.va⟩, false⟩] }).wake job addr false))
      ∧ (∀ job addr n j, a.target = .frame job addr n → s.job? job = some j →
        let s2 := (s1.dropXlats (faulting job)).setJob job { j with blocked := j.blocked.filter (fun k => decide (k ≠ addr)) }
        let answered (y : Susp) : Prop := y.addr = addr ∧ ∃ fn k, y.why = .fault fn k ∧ ∀ w ∈ (s1.fn fn).awaits, w.num ≠ k
        (∀ u ∈ j.unwritten, u.rcd.addr ≠ addr) → ((∀ y ∈ j.susp, ¬ answered y) → exec (.fqreplyRetry f num) s = .next s2)
        ∧ ((∃ y ∈ j.susp, answered y) → exec (.fqreplyRetry f num) s = .next (s2.wake job addr false)))
      ∧ (∀ id b, a.target = .barge id → s.barges.find? (fun (b : Barge) => decide (b.id = id)) = some b →
        ∃ s' : State, exec (.fqreplyRetry f num) s = .next s' ∧ s'.mem = s.mem
          ∧ s'.barges = s.barges.map (fun (b : Barge) => if b.id = id then { b with
            frozen := none
            observed := false
            seen := [] } else b))))

/-- R10, R39, R241, R252, R288, R356 to R361, R366, R377: register writes take the bits a register has, where its rule lets them, and no
other; a register read answers eight bytes; a host's writes reach its own memory, job memory that translates, and the ports,
where a 64-byte write is queued. A function that does not exist takes nothing.
(That registers of a package powered down drop writes and read zero, log 80, and that FQSIZE and MEMCFG values outside their range
are ignored, log 26, are the model's readings.) -/
def Obligations.RegistersAndHost : Prop :=
  (∀ (s : State) (f off : Nat) (v : Word), let x := s.fn f
    let w2 (o : Nat) (s' : State) := exec (.registerWrite f 2 o v) s = .next s'
    let live := s.hostLost = false ∧ s.poweredDown = false ∧ (f = 0 ∨ (s.job? f).isSome = true)
    let same (w o : Nat) (i : Instr) := exec (.registerWrite f w o v) s = exec i s
    (∀ win, ¬ live ∨ 0x10000 ≤ off → exec (.registerWrite f win off v) s = .next s)
    ∧ (∀ j, s.job? f = some j → live → f ≠ 0 → off < 0x10000 → ∀ win, win = 0 ∨ win = 1 → let k := off / 0x1000 % 16
      (off % 0x1000 < 64 → exec (.registerWrite f win off v) s = .next (s.setJob f (j.setStream k { j.stream k with
        badwr := if (j.stream k).badwr = BitVec.allOnes 32 then (j.stream k).badwr else (j.stream k).badwr + 1 })))
      ∧ (64 ≤ off % 0x1000 → exec (.registerWrite f win off v) s = .next s))
    ∧ (live →
      w2 0x1000 (if x.fqtail ≠ x.fqhead then s else s.setFn f { x with fqbase := v.toNat % 2 ^ 52 / 64 * 64 })
      ∧ (x.fqtail = x.fqhead → x.held = [] → v.toNat % 2 ^ 17 = 0 ∨ (∃ k, 4 ≤ k ∧ k ≤ 16 ∧ v.toNat % 2 ^ 17 = 2 ^ k) →
        w2 0x1008 (s.setFn f { x with fqsize := v.toNat % 2 ^ 17 }))
      ∧ (x.fqtail ≠ x.fqhead → w2 0x1008 s)
      ∧ same 2 0x1010 (.fqheadWrite f v) ∧ w2 0x1018 s ∧ w2 0x1028 s
      ∧ (v.getLsbD 32 = false → same 2 0x1020 (.fqreplyRetry f (v.toNat % 2 ^ 32)))
      ∧ (v.getLsbD 32 = true → same 2 0x1020 (.fqreplyDeliver f (v.toNat % 2 ^ 32)))
      ∧ (∀ j, f ≠ 0 → s.job? f = some j → w2 0x2000 (s.setJob f { j with s1new := v.toNat % 2 ^ 52 / 65536 * 65536 }))
      ∧ (x.invHeld = [] → w2 0x3000 (s.setFn f { x with invaddr := v }) ∧ w2 0x3008 (s.setFn f { x with invlen := v }))
      ∧ (16 ≤ x.invs.length → (∃ e t, x.invHeld = e :: t ∧ e.1 = 0x3010) → w2 0x3000 (s.setFn f { x with invHeld := x.invHeld ++ [(0x3000, v)] })
        ∧ w2 0x3008 (s.setFn f { x with invHeld := x.invHeld ++ [(0x3008, v)] }))
      ∧ same 2 0x3010 (.invcmd f v)
      ∧ w2 0x3018 s ∧ w2 0x4008 s
      ∧ (x.mbreq = none → w2 0x4000 (s.setFn f { x with mbreq := some v.toNat })))
    ∧ (live → f = 0 →
      (∀ (q : Nat) (p : Polder), q < 16 → s.polder? q = some p →
        exec (.registerWrite 0 0 (0x40 * q) v) s = .next (s.setPolder q { p with borderNew := v.setWidth 32 &&& 0x80FFFFFF })
        ∧ ∃ m : Word, (∀ i, i < 64 → m.getLsbD i = (v.getLsbD i && (decide (i < 2) || decide (8 ≤ i ∧ i < 15) || decide (16 ≤ i ∧ i < 24)
            || decide (i = 11))))
          ∧ (let ok := v.toNat / 256 % 16 ≤ 8 ∧ v.toNat / 4096 % 8 ≤ 4 ∧ v.toNat / 256 % 16 + v.toNat / 4096 % 8 ≤ 12
              ∧ v.toNat / 65536 % 256 ≤ 128
            (ok → exec (.registerWrite 0 0 (0x40 * q + 8) v) s = .next (s.setPolder q { p with memNew := m }))
            ∧ (¬ ok → exec (.registerWrite 0 0 (0x40 * q + 8) v) s = .next s)))
      ∧ (∀ n, n < 6 → same 0 (0x2000 + 0x100 * n) (.rselWrite n v)
        ∧ exec (.registerWrite 0 0 (0x2028 + 0x100 * n) v) s = .next (s.setSluice n { s.sluice n with
          replim := v.toNat % 2 ^ 32
          crclim := v.toNat / 2 ^ 32 % 2 ^ 16 }))
      ∧ (∀ (k : Nat) (j : Job), k < 256 → s.job? k = some j → let slot (o : Nat) (s' : State) := exec (.registerWrite 0 1 (0x100 * k + o) v) s = .next s'
        slot 0 (s.setJob k { j with s2new := v.toNat % 2 ^ 52 / 65536 * 65536 })
        ∧ slot 8 (s.setJob k { j with jcbpa := v.toNat % 2 ^ 52 / 8192 * 8192 })
        ∧ slot 0x10 (s.setJob k { j with dkeylo := v })
        ∧ same 1 (0x100 * k + 0x18) (.dkeyhiWrite k v))))
  ∧ (∀ (s : State) (a f win off : Nat) (bs : List Byte),
    exec (.hostAccess (.writeHost a bs)) s = .next { s with host := s.host.writeBytes a bs }
    ∧ (∀ holes, exec (.hostAccess (.mapHost holes)) s = .next { s with hostHoles := holes })
    ∧ ∃ v : Nat, exec (.hostAccess (.readReg f win off)) s = .next { s with hostReads := leBytes 8 v :: s.hostReads }
      ∧ (s.hostLost = true ∨ s.poweredDown = true ∨ (f ≠ 0 ∧ s.job? f = none) → v = 0)
      ∧ (s.hostLost = false → s.poweredDown = false → f = 0 ∨ (s.job? f).isSome = true → win = 2 →
        (off = 0x1000 → v = (s.fn f).fqbase) ∧ (off = 0x1010 → v = (s.fn f).fqhead) ∧ (off = 0x1018 → v = (s.fn f).fqtail)
        ∧ (off = 0x1020 → v = 0) ∧ (off = 0x1028 → v = (s.fn f).held.length) ∧ (off = 0x3018 → v = (s.fn f).invdone.toNat)
        ∧ (off = 0x4008 → v = (if (s.fn f).mbreq.isSome then 1 else 0) + 2 ^ 32 * (s.fn f).mbdone.toNat)))
  ∧ (∀ (s : State) (job : Nat) (j : Job), s.job? job = some j → s.hostLost = false → s.poweredDown = false → job ≠ 0 →
    ∀ (sn va : Nat) (bs : List Byte), let x := j.stream sn
    (∀ n (s1 : State) (out : List Byte), s.devRead job (s.jobSite job) va n accLoad = .ok (s1, out) →
      exec (.hostAccess (.readJob job va n)) s = .next { s1 with hostReads := out :: s1.hostReads })
    ∧ (∀ k, 0 < bs.length → va % 65536 + bs.length ≤ 65536 → s.devKey job (s.jobSite job) va accStore .write = .ok k → k < 2 ^ 52 → s.pend = [] →
      (∀ e ∈ s.tiles, e.2.slots = []) → ∃ s' : State, exec (.hostAccess (.writeJob job va bs)) s = .next s'
        ∧ s'.mem = s.mem.writeBytes k bs ∧ s'.tiles = s.tiles)
    ∧ (sn < 16 → bs.length = 64 →
      (x.queue.length + x.overflow.length < 64 → exec (.hostAccess (.port job false sn 0 bs)) s =
        .next (s.setJob job (j.setStream sn { x with queue := x.queue ++ [⟨bs, false⟩] })))
      ∧ (x.cqueue.length < 64 → exec (.hostAccess (.port job true sn 0 bs)) s =
        .next (s.setJob job (j.setStream sn { x with cqueue := x.cqueue ++ [⟨bs, false⟩] })))
      ∧ (let stat := fieldAt bs 24 8
        stat = 0 ∨ (stat % 32 = 0 ∧ stat < 2 ^ 60) →
        let full (s' : State) := s' = s.writeStatus job sn stat 0x10E 0xFFFFFFFF 0 (fieldAt bs 16 8)
        (64 ≤ x.queue.length + x.overflow.length → ∃ s', exec (.hostAccess (.port job false sn 0 bs)) s = .next s' ∧ full s')
        ∧ (64 ≤ x.cqueue.length → ∃ s', exec (.hostAccess (.port job true sn 0 bs)) s = .next s' ∧ full s')))
    ∧ (sn < 16 → ∀ (coll : Bool) (off : Nat), off < 64 → off ≠ 0 ∨ bs.length ≠ 64 → exec (.hostAccess (.port job coll sn off bs)) s =
      .next (s.setJob job (j.setStream sn { x with badwr := if x.badwr = BitVec.allOnes 32 then x.badwr else x.badwr + 1 }))))

/-- R366 to R373, R380: a rate other than CUR retrains the sluice; retraining moves failing lanes of a module to its four repair lanes,
else turns a half of it, or all of it, off; a window over CRCLIM steps the rate down; a flit that fails its CRC counts, and is sent
again with those behind it in its direction, as all in flight are at a retraining, while which nothing is delivered; a
heartbeat is sent when its time has come; a failure is posted, and a lost package fails what is not yet announced of its groups.
(How a repair counts lanes moved before, log 52, that heartbeats are a count, log 38, and which flits there are to send again, log 114,
are the model's.) -/
def Obligations.SluicesAndFabric : Prop :=
  (∀ (s : State) (n : Nat) (v : Word), n < 6 → let x := s.sluice n
    let again (dir : Nat) (seq : BitVec 32) := s.dhq.filter (fun w => w.at_ == .sent && w.hops.any (fun h =>
      decide (h.sluice = n) && decide (h.dir = dir) && decide ((h.seq - seq).toNat < 2 ^ 31)))
    let resent : State := { s with dhq := s.dhq ++ again 0 (x.got.getD 2 0) ++ again 1 (x.got.getD 6 0) }
    (v.toNat % 8 < 5 → exec (.rselWrite n v) s = .next (
      if v.toNat % 8 = x.cur ∨ x.train = true then s.setSluice n { x with rsel := v.toNat % 8 }
      else resent.setSluice n { x with
        rsel := v.toNat % 8
        train := true }))
    ∧ (5 ≤ v.toNat % 8 → exec (.rselWrite n v) s = .next s)
    ∧ (∀ (dir cls : Nat) (seq : BitVec 32), exec (.flitCrcFail ⟨n, dir, cls, seq⟩) s = .next (
      { s with dhq := s.dhq ++ (if cls = 2 then again dir seq else []) }.setSluice n { x with
        crcerr := min (2 ^ 64 - 1) (x.crcerr + 1)
        replays := min (2 ^ 64 - 1) (x.replays + 1) }))
    ∧ (x.train = true ∨ x.lanes < 64 → ∀ w : DhWrite, w.at_ = .sent → (∃ h ∈ w.hops, h.sluice = n) → s.inSeq w = false)
    ∧ (x.train = false → ∀ bad, exec (.sluiceRetrainComplete n bad) s = .next s)
    ∧ (x.train = true → ∀ bad : List (Nat × Nat), ∃ (s' : State) (y : Sluice), exec (.sluiceRetrainComplete n bad) s = .next s' ∧ s'.sluice n = y
      ∧ y.cur = x.rsel ∧ y.train = false ∧ y.lanes = (y.modules.map (fun m => if m.off then 0 else if m.half.isSome then 32 else 64)).sum
      ∧ y.modules.length = x.modules.length
      ∧ ∀ (i : Nat) (m : Lanes), x.modules[i]? = some m → y.modules[i]? =
        some (m.repair ((bad.filter (fun f => decide (f.1 = i) && decide (f.2 < 64))).map (·.2))))
    ∧ (s.ccy.toNat / 2 ^ 20 ≤ x.win → exec (.sluiceWindowEnd n) s = .next s)
    ∧ (x.win < s.ccy.toNat / 2 ^ 20 → ∃ s' : State, exec (.sluiceWindowEnd n) s = .next s'
      ∧ (x.crclim < x.crcerr - x.winCrc → 0 < x.cur → x.train = false → s'.dhq = resent.dhq) ∧
      let y := { x with
        win := s.ccy.toNat / 2 ^ 20
        winReplays := x.replays
        winCrc := x.crcerr }
      s'.sluice n = if x.crclim < x.crcerr - x.winCrc ∧ 0 < x.cur then { y with
        cur := x.cur - 1
        rsel := x.cur - 1
        train := true } else y))
  ∧ (∀ (m : Lanes) (bad : List Nat), m.off = false → m.half = none → (∀ l ∈ bad, l < 64) →
    let all := bad.foldl (fun acc l => NSet.insert l acc) m.moved
    let r := m.repair bad
    (all.length ≤ 4 → r = { m with moved := all })
    ∧ (4 < all.length → (∀ l ∈ all, l < 32) → r = { m with half := some 0 })
    ∧ (4 < all.length → (∀ l ∈ all, 32 ≤ l) → r = { m with half := some 1 })
    ∧ (4 < all.length → (∃ l ∈ all, l < 32) → (∃ l ∈ all, 32 ≤ l) → r = { m with off := true }))
  ∧ (∀ s : State,
    (s.timers.beat < s.ccy.toNat / 12000 → exec .fabricHeartbeat s = .next { s with
      beats := s.beats + 1
      timers := { s.timers with beat := s.ccy.toNat / 12000 } })
    ∧ (s.ccy.toNat / 12000 ≤ s.timers.beat → exec .fabricHeartbeat s = .next s)
    ∧ ∀ level addr : Nat,
      (level = 0 ∨ 3 < level → exec (.fabricTimeout level addr) s = .next s)
      ∧ (level = 1 ∨ level = 2 → ∃ s' : State, exec (.fabricTimeout level addr) s = .next s' ∧ s'.jobs = s.jobs ∧ s'.groups = s.groups
        ∧ (s'.fn 0).fqtail + (s'.fn 0).held.length = (s.fn 0).fqtail + (s.fn 0).held.length + 1
        ∧ let x := s.fn 0
          (x.held = [] → x.fqsize ≠ 0 → x.fqtail - x.fqhead ≠ x.fqsize → (s'.fn 0).msix = x.msix ++ [0, 2])
          ∧ (x.fqsize = 0 ∨ x.fqtail - x.fqhead = x.fqsize → (s'.fn 0).msix = x.msix))
      ∧ (level = 3 → ∃ s' : State, exec (.fabricTimeout level addr) s = .next s'
        ∧ let lost (g : Group) : Bool := g.table.any (fun e => decide (e.1 = addr))
          s'.groups = s.groups.map (fun (g : Group) => if lost g then { g with lost := true } else g)
          ∧ ∀ job j, s.job? job = some j → ∃ j', s'.job? job = some j' ∧ j'.colls = j.colls.map (fun (c : Coll) =>
            if (∃ g ∈ s.groups, lost g = true ∧ g.num = c.group) ∧ c.announced = false then { c with failed := true } else c)))

/-- R361 to R364, R376, R382 to R386, R352, R353, R55, R3, R58: a mailbox command under its gates is carried out and answered: the
header with its status, the bytes that follow and CCY, then whole items of the payload while they fit; one that breaks a gate or
its own form is refused with the status of its rule and no effect, and one whose
arguments cannot be read is answered UNREADABLE. (Which host memory can be read is the host's, log 3; that a destruction is answered when no tile is left, the layout of
RESYNC and the order of the refusals are logs 50, 53 and 55, what its lengths count log 123; the SPDM forms log 58; that a job whose
job-written area breaks its limits has a CODE_DIGEST that is UNREADABLE is the model's reading, log 57; what is kept of a polder at a
new layout log 56.) -/
def Obligations.Mailbox : Prop :=
  (∀ (s : State) (fn : Nat) (b : List Byte) (status : Nat) (items : List (List Byte)), s.mbBlock fn = some b → 16 ≤ mbRepLen b →
    let x := s.fn fn
    let room := mbRepLen b - 16
    let reply (st : Nat) (body : List Byte) : State :=
      { s with host := s.host.writeBytes (mbRep b) (leBytes 4 st ++ (leBytes 4 body.length ++ (leBytes 8 s.ccy.toNat ++ body))) }.setFn fn { x with
        mbdone := x.mbdone + 1
        msix := x.msix ++ [1]
        mbreq := none }
    (items.flatten.length ≤ room → s.answer fn status items = reply status items.flatten)
    ∧ (∀ k, k < items.length → (items.take k).flatten.length ≤ room → room < (items.take (k + 1)).flatten.length →
      s.answer fn status items = reply 6 (items.take k).flatten))
  ∧ (∀ (s : State) (fn : Nat) (b : List Byte), s.mbBlock fn = some b →
    let op := mbOp b
    let unknown := op = 0 ∨ 14 < op
    let denied := (fn ≠ 0 ∧ (op < 8 ∨ 11 < op)) ∨ (s.lifecycle ≠ 2 ∧ 5 ≤ op ∧ op ≤ 11)
    let form := fieldAt b 2 2 = 0 ∧ fieldAt b 28 4 = 0 ∧ 16 ≤ mbRepLen b ∧ ((s.fn fn).mbreq.getD 0) % 64 = 0
    let run (i : Instr) (s' : State) (out : List (List Byte)) := exec i s = .next (s'.answer fn 0 out)
    let refuse (i : Instr) (k : Nat) := exec i s = .next (s.answer fn k [])
    let none32 (o : Nat) := (b.drop o).all (fun y => y == 0) = true
    let bare := mbLen b = 0 ∧ mbAddr b = 0
    let args := s.host.readBytes (mbAddr b) (mbLen b)
    let noJob := (fn = 0 → s.job? (fieldAt b 32 2) = none) ∧ (fn ≠ 0 → fieldAt b 32 2 ≠ 0 ∨ s.job? fn = none)
    let reads := mbAddr b + mbLen b ≤ 2 ^ 52 ∧ ∀ h ∈ s.hostHoles, h.1 + h.2 ≤ mbAddr b ∨ mbAddr b + mbLen b ≤ h.1
    (unknown → refuse (.resync fn) 2)
    ∧ (¬ unknown → denied → refuse (mailEvent fn b) 3)
    ∧ (¬ unknown → ¬ denied → ¬ form → refuse (mailEvent fn b) 2)
    ∧ (¬ unknown → ¬ denied → form →
      (op = 1 → (none32 32 ∧ bare → run (.resync fn) s (s.resyncItems (mbRepLen b - 16)))
        ∧ (¬ (none32 32 ∧ bare) → refuse (.resync fn) 2))
      ∧ (op = 2 → reads → ∀ (np : Nat) (ps : List Polder), np = fieldAt b 32 2 → 0 < np → np ≤ 16 → mbLen b = 16 * np → none32 34 → ps.length = np →
        (∀ (i : Nat) (p : Polder), ps[i]? = some p → polderEntry ((args.drop (16 * i)).take 16) = some p) →
        (ps.map (fun (p : Polder) => p.quads.length)).sum = 16 → (∀ q, q < 16 → ∃ p ∈ ps, q ∈ p.quads) →
        run (.polderSet fn) (s.setLayout ps) []
        ∧ (s.setLayout ps).polders.map (·.1) = ps.map Polder.lowest
        ∧ ∀ p ∈ ps, ∃ e ∈ (s.setLayout ps).polders, e.1 = p.lowest ∧ e.2.sameRect p = true ∧ e.2.memNew = p.memNew)
      ∧ (op = 2 → let np := fieldAt b 32 2
        let own := 0 < np ∧ np ≤ 16 ∧ mbLen b = 16 * np ∧ none32 34
        let entry (i : Nat) := polderEntry ((args.drop (16 * i)).take 16)
        (¬ own → refuse (.polderSet fn) 2) ∧ (own → ¬ reads → refuse (.polderSet fn) 5)
        ∧ (own → reads → (∃ i, i < np ∧ entry i = none) → refuse (.polderSet fn) 2)
        ∧ (own → reads → ∀ ps : List Polder, ps.length = np → (∀ (i : Nat) (p : Polder), ps[i]? = some p → entry i = some p) →
          (ps.map (fun (p : Polder) => p.quads.length)).sum ≠ 16 ∨ (∃ q, q < 16 ∧ ∀ p ∈ ps, q ∉ p.quads) → refuse (.polderSet fn) 2))
      ∧ (op = 3 → none32 33 ∧ bare ∧ (s.polder? (fieldAt b 32 1)).isSome = true → run (.polderReset fn) (s.resetPolder (fieldAt b 32 1)) [])
      ∧ (op = 3 → ¬ (none32 33 ∧ bare ∧ (s.polder? (fieldAt b 32 1)).isSome = true) → refuse (.polderReset fn) 2)
      ∧ (op = 4 → let w := fieldAt b 32 4
        (none32 36 ∧ bare ∧ 1200 ≤ w ∧ w ≤ 3000 → run (.powerLimit fn) { s with power := w } [leBytes 8 w])
        ∧ (¬ (none32 36 ∧ bare ∧ 1200 ≤ w ∧ w ≤ 3000) → refuse (.powerLimit fn) 2))
      ∧ (op = 5 → let jid := fieldAt b 32 2
        let q := fieldAt b 34 1
        let weight := fieldAt b 35 1
        let floor := fieldAt b 36 2
        let ceil := fieldAt b 38 2
        let prio := fieldAt b 40 1
        let pa := fieldAt b 48 8
        let root := fieldAt b 56 8
        let own := bare ∧ 1 ≤ jid ∧ jid ≤ 255 ∧ s.job? jid = none ∧ (s.polder? q).isSome = true ∧ 1 ≤ weight ∧ floor ≤ ceil ∧ prio ≤ 31
          ∧ fieldAt b 41 7 = 0 ∧ pa % 8192 = 0 ∧ pa < 2 ^ 52 ∧ root % 65536 = 0 ∧ root < 2 ^ 52
        (¬ own → refuse (.jobCreate fn) 2)
        ∧ (own → (∀ n, n < 576 → s.seedable q n = false) → refuse (.jobCreate fn) 4)
        ∧ (own → (∃ n, n < 576 ∧ s.seedable q n = true) →
          let area := leBytes 4 jid ++ (leBytes 2 floor ++ (leBytes 2 ceil ++ (leBytes 1 weight ++ leBytes 1 prio)))
          let j : Job := { polder := q, jcbpa := pa, s2root := root, s2new := root, floor := floor, ceil := ceil, weight := weight }
          let s1 : State := { s with
            mem := (s.mem.zero pa 8192).writeBytes (pa + 0x100) area
            poison := clearPoison s.poison pa 8192 }
          run (.jobCreate fn) ((s1.setJob jid j).setFn jid {}) []))
      ∧ (op = 6 → ∀ j, s.job? (fieldAt b 32 2) = some j → none32 34 → bare → let jid := fieldAt b 32 2
        (j.destroying = false → exec (.jobDestroy fn) s = .next (s.startDestroy jid))
        ∧ (j.destroying = true → (∃ e ∈ s.tiles, ownedBy e.2.owner jid = true) → exec (.jobDestroy fn) s = .next s)
        ∧ (j.destroying = true → (∀ e ∈ s.tiles, ownedBy e.2.owner jid = false) →
          ((∃ e ∈ j.gangs, e.2.live = true) ∨ j.colls ≠ [] → exec (.jobDestroy fn) s = .next (s.endGangs jid 0x201))
          ∧ ((∀ e ∈ j.gangs, e.2.live = false) → j.colls = [] → j.portsEmpty = false → exec (.jobDestroy fn) s = .next s))
        ∧ (j.destroying = true → (∀ e ∈ s.tiles, ownedBy e.2.owner jid = false) → (∀ e ∈ j.gangs, e.2.live = false) → j.colls = [] →
          j.portsEmpty = true → run (.jobDestroy fn) (s.endDestroy jid) []
          ∧ (s.endDestroy jid).job? jid = none ∧ ((s.endDestroy jid).fn jid) = {} ∧ ∀ g ∈ (s.endDestroy jid).groups, g.job ≠ jid))
      ∧ (op = 6 → s.job? (fieldAt b 32 2) = none ∨ ¬ none32 34 ∨ ¬ bare → refuse (.jobDestroy fn) 2)
      ∧ (op = 7 → let num := fieldAt b 32 2
        let jid := fieldAt b 34 2
        let rank := fieldAt b 36 4
        let n := fieldAt b 40 4
        let table := (List.range n).map (fun i => (fieldAt args (72 * i) 8, BitVec.ofNat 512 (fieldAt args (72 * i + 8) 64)))
        let own := none32 44 ∧ 0 < n ∧ n ≤ 65536 ∧ rank < n ∧ mbLen b = 72 * n ∧ (s.job? jid).isSome = true
        (¬ own → refuse (.groupSet fn) 2) ∧ (own → ¬ reads → refuse (.groupSet fn) 5)
        ∧ (own → reads → (∃ e ∈ table, 2 ^ 24 ≤ e.1) → refuse (.groupSet fn) 2)
        ∧ (own → reads → (∀ e ∈ table, e.1 < 2 ^ 24) →
        (s.group? num = none → run (.groupSet fn) { s with groups := s.groups ++ [⟨num, jid, rank, table, none, 0, [], false⟩] } [])
        ∧ (∀ g, s.group? num = some g → run (.groupSet fn) ((s.setGroup { g with next := some (jid, rank, table) }).swapTable num) [])))
      ∧ (noJob → (op = 8 → refuse (.codeDigest fn) 2) ∧ (op = 9 → refuse (.formation fn) 2) ∧ (op = 10 → refuse (.report fn) 2)
        ∧ (op = 11 → refuse (.measure fn) 2))
      ∧ (∀ (jid : Nat) (j : Job), (fn = 0 ∧ jid = fieldAt b 32 2) ∨ (fn ≠ 0 ∧ fieldAt b 32 2 = 0 ∧ jid = fn) → s.job? jid = some j →
        (op = 8 → none32 34 → bare → (s.codeRegions jid j = none → refuse (.codeDigest fn) 5)
          ∧ ∀ rs, s.codeRegions jid j = some rs → (s.codeBytes jid rs = none → refuse (.codeDigest fn) 5)
          ∧ ∀ bs, s.codeBytes jid rs = some bs → run (.codeDigest fn) (s.setJob jid { j with
            codeDigest := digestVal (sha512 bs)
            codeRegs := rs }) [digestBytes (digestVal (sha512 bs))])
        ∧ (op = 8 → ¬ (none32 34 ∧ bare) → refuse (.codeDigest fn) 2)
        ∧ (op = 9 → let own := fieldAt b 36 1 ≤ 1 ∧ none32 37 ∧ mbLen b = 32
            ∧ (fieldAt b 36 1 = 1 → ∃ g, s.group? (fieldAt b 34 2) = some g ∧ g.job = jid)
          (¬ own → refuse (.formation fn) 2) ∧ (own → ¬ reads → refuse (.formation fn) 5))
        ∧ (op = 10 → (¬ (none32 34 ∧ mbLen b = 32) → refuse (.report fn) 2) ∧ (none32 34 → mbLen b = 32 → ¬ reads → refuse (.report fn) 5))
        ∧ (op = 11 → let own := none32 34 ∧ mbLen b = 64 ∧ j.destroying = false
          let launch := s.readLaunch jid j (fieldAt args 0 8) 0 (fun _ => 0)
          (¬ own → refuse (.measure fn) 2) ∧ (own → ¬ reads → refuse (.measure fn) 5)
          ∧ (own → reads → measOk args = false → refuse (.measure fn) 2)
          ∧ (own → reads → measOk args = true →
            ((launch.1 ≠ [] ∨ launch.2 = none) → refuse (.measure fn) (if lowest launch.1 = some 0x10A then 5 else 2))
            ∧ ∀ l : Launch, launch = ([], some l) → l.desc.digest ≠ 0 → refuse (.measure fn) 2))
        ∧ (op = 9 → reads → none32 37 → mbLen b = 32 → ∀ g : Option Group, (fieldAt b 36 1 = 0 ∧ g = none) ∨ (fieldAt b 36 1 = 1 ∧ g.isSome = true ∧
          g = (s.group? (fieldAt b 34 2)).filter (fun g => decide (g.job = jid))) → let body := s.formationBody jid j args g
          run (.formation fn) ({ s with draws := s.draws + 1 }.setJob jid { j with fseq := j.fseq + 1 }) [body ++ signed body s.draws])
        ∧ (op = 10 → reads → none32 34 → mbLen b = 32 → ∀ j', (s.flushMeter jid).job? jid = some j' → ∃ s' : State,
          let s1 := s.flushMeter jid
          let body := s1.reportBody jid j' args
          s' = { s1 with draws := s1.draws + 1 }.setJob jid { j' with rseq := j'.rseq + 1 }
          ∧ exec (.report fn) s = .next (s'.answer fn 0 [body ++ signed body s1.draws]))
        ∧ (op = 11 → reads → none32 34 → mbLen b = 64 → measOk args = true → j.destroying = false →
          ∀ l : Launch,
          s.readLaunch jid j (fieldAt args 0 8) 0 (fun _ => 0) = ([], some l) → l.desc.digest = 0 →
          ∀ (s2 : State) (gid tk : Nat) (g : Gang), s.accept jid l 0 0 none = (s2, gid, tk) → s2.gang? jid gid = some g →
          exec (.measure fn) s = .next ((s2.setGang jid gid { g with meas := some (measOf args fn) }).answer fn 0
            [leBytes 4 gid ++ (leBytes 4 0 ++ (leBytes 6 tk ++ leBytes 2 0))])))
      ∧ (op = 12 → ∀ r : List Byte, (mbAddr b = 0 ∧ mbLen b ≤ 32 ∧ none32 (32 + mbLen b) ∧ r = (b.drop 32).take (mbLen b))
          ∨ (mbAddr b ≠ 0 ∧ none32 32 ∧ reads ∧ r = args) →
        run (.spdm fn) { s with
          spdm := s.spdm ++ [(r, s.spdmAnswer r)]
          draws := s.draws + 1 } [s.spdmAnswer r])
      ∧ (op = 12 → ((mbAddr b = 0 ∧ (32 < mbLen b ∨ ¬ none32 (32 + mbLen b))) ∨ (mbAddr b ≠ 0 ∧ ¬ none32 32) → refuse (.spdm fn) 2)
        ∧ (mbAddr b ≠ 0 → none32 32 → ¬ reads → refuse (.spdm fn) 5))
      ∧ (op = 13 → ∀ k, k = fieldAt b 32 1 → let own := 8 ≤ k ∧ k ≤ 15 ∧ none32 33 ∧ mbLen b = 64
        (¬ own → refuse (.extend fn) 2) ∧ (own → ¬ reads → refuse (.extend fn) 5)
        ∧ (own → reads → let v := digestVal (sha512 (digestBytes (AMap.getD s.meas k 0) ++ args))
          run (.extend fn) { s with meas := AMap.set s.meas k v } [digestBytes v]))
      ∧ (op = 14 → fieldAt b 32 1 = 0xFF → none32 33 → bare → run (.lifecycleQuery fn) s [leBytes 1 s.lifecycle ++ (leBytes 7 0 ++ (leBytes 8 s.lcseq.toNat ++
          (if s.ownerKey = [] then leBytes 64 0 else sha512 s.ownerKey)))])
      ∧ (op = 14 → fieldAt b 32 1 = 0xFF → ¬ (none32 33 ∧ bare) → refuse (.lifecycleQuery fn) 2)
      ∧ (op = 14 → fieldAt b 32 1 ≠ 0xFF → let target := fieldAt b 32 1
        let own := target ≤ 3 ∧ none32 33 ∧ (mbLen b = 132 ∨ mbLen b = 265)
        let listed := (s.lifecycle, target) ∈ [(0, 1), (1, 2), (1, 3), (2, 1), (2, 3)]
        (¬ own → refuse (.lifecycleTransition fn) 2) ∧ (own → ¬ reads → refuse (.lifecycleTransition fn) 5)
        ∧ (own → reads → ¬ listed → refuse (.lifecycleTransition fn) 3)
        ∧ (own → reads → s.lifecycle = 0 → target = 1 → mbLen b = 132 → refuse (.lifecycleTransition fn) 3)
        ∧ (own → reads → listed → target ≠ 1 → mbLen b = 265 → refuse (.lifecycleTransition fn) 2))
      ∧ (op = 14 → let target := fieldAt b 32 1
        let key := args.drop 132
        let ok := Config.ecdsaVerify (if s.lifecycle = 0 then Config.firmwareKey else s.ownerKey)
          (digestVal (sha512 (digestBytes Config.devid ++ (leBytes 1 target ++ (leBytes 8 s.lcseq.toNat ++ key))))) (args.take 66) ((args.drop 66).take 66)
        let way := (s.lifecycle = 0 ∧ target = 1 ∧ mbLen b = 265) ∨ (s.lifecycle = 2 ∧ target = 1 ∧ (mbLen b = 132 ∨ mbLen b = 265))
          ∨ (s.lifecycle = 1 ∧ (target = 2 ∨ target = 3) ∧ mbLen b = 132) ∨ (s.lifecycle = 2 ∧ target = 3 ∧ mbLen b = 132)
        none32 33 → way → reads →
        (ok = true → run (.lifecycleTransition fn) (s.transition target key) [] ∧ (s.transition target key).lifecycle = target
          ∧ (s.transition target key).mem = [])
        ∧ (ok = false → refuse (.lifecycleTransition fn) 3))))

/-! The machine as a whole. -/

/-- R82 to R85, R91 to R102: the 96 bits that fetch takes from the 12 bytes of a slot are little-endian; words written out from the
encodings of the manual decode to what they stand for; a reserved field that is not zero, a code its entry does not accept and the
all-zero word are no instruction. -/
def Obligations.DecodesSpecWords : Prop :=
  decode 0x100001450006010000000001 = some (.iadd ⟨false, 0⟩ .s64 false 5 5 (.imm 1))
  ∧ decode 0x02000000000006FFFFFFFFFF = some (.br ⟨false, 0⟩ 3 (BitVec.allOnes 40))
  ∧ decode 0x2100000A0065010000000020 = some (.st ⟨false, 0⟩ .n32 .plain 10 (.imm 32) 6)
  ∧ decode 0x3200000A0078000000000000 = some (.red ⟨false, 0⟩ .add .f32 .rne 10 (.w 7))
  ∧ decode 0x400000C10809000000000000 = some (.vadd ⟨false, 0⟩ .f16 .rne false 3 1 (.reg 2))
  ∧ decode 0x610100412CC0000000000000 = some (.ycmpq ⟨false, 0⟩ 1 1 11 12)
  ∧ decode 0x680005480000000000000001 = some (.bgreq ⟨false, 0⟩ 21 8 1)
  ∧ decode 0x740000010838000000000000 = some (.mscale ⟨false, 0⟩ .rne false 0 0 0 0 1 2 3)
  ∧ decode 0x000000000000000000000000 = none
  ∧ decode 0x010000000000000000000001 = none
  ∧ decode 0x100301450008010000000001 = none
  ∧ ∀ (line : List Byte) (k i : Nat), line.length = 64 → k < 5 → i < 12 →
    (BitVec.ofNat 96 (fieldAt line (12 * k) 12)).extractLsb' (8 * i) 8 = line.getD (12 * k + i) 0

/-- R91 to R102: decoding and encoding are inverse: every well-formed instruction, with every operand its encoding admits, is read back from
its word; a word that is an instruction is the encoding of it, so that no two instructions share a word and no bit is ignored. -/
def Obligations.DecodeEncode : Prop :=
  (∀ i : Instr, i.wf = true → i.isEvent = false → decode (encode i) = some i ∧ decodeTableWord 96 (encode i).toNat = some i)
  ∧ (∀ (w : IWord) (i : Instr), decode w = some i → i.wf = true ∧ i.isEvent = false ∧ encode i = w)

/-- R83 to R90, R143, R235, R237: a tile's turn fetches the slot at the PC of its task and carries out the instruction the slot's word decodes to; a word
that is none, or a line word with reserved bits, is ILLEGAL_INSTRUCTION. The line is the one the fetch unit holds, else the 64
bytes at their home. What lies around it is that the
task has passed its entry and that V-pipe issues are counted. An mcmd or mswap that waits, or a DSM gang's amof that was served at the
close of its quantum, is carried on, not fetched again. (That a step
gives one tile one instruction, or carries out one event, is log 1, the count log 128, what a begun mcmd, mswap or amof reads again log 138.) -/
def Obligations.StepRunsDecoded : Prop :=
  (∀ (s : State) (n : Nat) (rest : List Turn) (r : Run), s.inputs = .run n :: rest →
    let s0 : State := { s with
      inputs := rest
      cur := n }.pass
    s0.mayIssue (s0.tile n) = true → (s0.tile n).run = some r → r.pend = none → r.firm ≠ some .restore →
    (∀ i, r.begun = some i → (s0.tile n).msg.isSome = true ∨ (s0.tile n).swap.isSome = true ∨ r.verdict.isSome = true ∨ r.swapped.isSome = true →
      step s = exec i s0)
    ∧ (∀ (i : Instr) (x : TaskInfo), (s0.tile n).msg = none → (s0.tile n).swap = none → r.verdict = none → r.swapped = none →
      (s0.runGang r).bind (·.task? r.taskAddr) = some x → x.got ≠ none → x.amof = some i → step s = exec i s0)
    ∧ ((∀ x, (s0.runGang r).bind (·.task? r.taskAddr) = some x → x.got = none ∨ x.amof = none) →
      r.begun = none ∨ ((s0.tile n).msg = none ∧ (s0.tile n).swap = none ∧ r.verdict = none ∧ r.swapped = none) → ∀ (s1 : State) (w : IWord) (lw : Nat), s0.fetchCheck n r r.pc r.entry = .ok (s1, w, lw) →
      (∀ i, lineClean lw = true → decode w = some i → step s = exec i ((s1.entered n).issued n i))
      ∧ (lineClean lw = false ∨ decode w = none → step s = .next ((s1.entered n).takeTrap n r 0x01 r.pc))))
  ∧ (∀ (s : State) (n : Nat) (i : Instr),
    let u := (s.entered n).issued n i
    u = s.setTile n { s.tile n with
      total := (u.tile n).total
      run := (s.tile n).run.map (fun (r : Run) => { r with
        entry := false
        vec := false }) })
  ∧ (∀ (s : State) (n : Nat) (r : Run) (k : Nat) (x : Xlat), r.sup = false → k < 5 → r.pc.toNat % 64 = 12 * k → r.pc.toNat < 2 ^ 60 →
    s.codeOk r (r.pc.toNat / 64 * 64) = true → s.translate n r.job r.pc.toNat accFetch .fetch = .ok x →
    let s1 := s.fillXlat n r.job r.pc.toNat .fetch x
    let key := x.key (s.siteOf n) (r.pc.toNat / 64 * 64) / 64
    (∀ c : CLine, findCLine key (s1.tile n).fbuf = some c → sparOk c.data k = true → (c.data.toNat / 2 ^ 480).testBit k = true ∨ r.entry = false →
      s.fetchCheck n r r.pc r.entry = .ok (s1, BitVec.ofNat 96 (c.data.toNat / 2 ^ (96 * k)), c.data.toNat / 2 ^ 480))
    ∧ (findCLine key (s1.tile n).fbuf = none → findCLine key (s1.tile n).icache = none → s1.memBad (key * 64) 64 = false →
      ∀ (s2 : State) (bs : List Byte), s1.homeRead (key * 64) 64 = (s2, bs) → let l := BitVec.ofNat 512 (leVal bs)
      lparOk l = true → sparOk l k = true → (fieldAt bs 60 4).testBit k = true ∨ r.entry = false →
      ∃ s3 : State, s.fetchCheck n r r.pc r.entry = .ok (s3, BitVec.ofNat 96 (fieldAt bs (12 * k) 12), fieldAt bs 60 4)
        ∧ (findCLine key (s3.tile n).fbuf).map (·.data) = some l))
  ∧ (∀ (s : State) (i : Instr) (n : Nat) (rest : List Turn),
    (s.inputs = .event i :: rest → s.poweredDown = false → step s = exec i { s with inputs := rest })
    ∧ (s.inputs = .tick :: rest → step s = .next { s with inputs := rest }.pass)
    ∧ (s.inputs = [] → s.dueEvent = some i → step s = exec i s)
    ∧ (s.inputs = [] → s.dueEvent = none → s.nextTile = none → step s = .next s.pass)
    ∧ (s.inputs = [] → s.dueEvent = none → s.nextTile = some n → step s = step { s with inputs := [.run n] }))

/-- R56, R241, R366, R386: the machine after package reset: device memory reads zero, both memories are in their canonical form, no tile
is owned or runs, no job and no group exists, one polder covers the package with its registers at their reset values, the sluices
stand at full width, their lowest rate and their limits. (The model's choices: the power limit of 3,000 W, log 5; the one polder of all
quadrants, log 4; a host memory that reads zero, log 3.) -/
def Obligations.ResetState : Prop :=
  let s := State.reset
  (∀ a, s.mem.get a = 0 ∧ s.host.get a = 0) ∧ s.mem.wf = true ∧ s.host.wf = true ∧ s.poison = []
  ∧ (∀ n, (s.tile n).owner = .unowned ∧ (s.tile n).run = none ∧ (∀ a, (s.tile n).sp.get a = 0) ∧ (s.tile n).tlb = [] ∧ (s.tile n).l1 = [])
  ∧ s.jobs = [] ∧ s.groups = [] ∧ s.barges = []
  ∧ (∃ p : Polder, s.polders = [(0, p)] ∧ p.quads = List.range 16 ∧ p.borderNew = 0x20000 ∧ p.memNew = 0x2401)
  ∧ (∀ n, n < 6 → (s.sluice n).cur = 0 ∧ (s.sluice n).rsel = 0 ∧ (s.sluice n).train = false ∧ (s.sluice n).lanes = (if n < 4 then 512 else 256)
    ∧ (s.sluice n).replim = 4096 ∧ (s.sluice n).crclim = 1024)
  ∧ s.power = 3000 ∧ (∀ f, (s.fn f).fqsize = 0 ∧ (s.fn f).fqhead = 0 ∧ (s.fn f).fqtail = 0 ∧ (s.fn f).mbreq = none)

/-- R7, R386: no step of the machine, whatever the state it starts in, takes device memory or host memory out of its canonical form: addresses
rising, each listed once, none listed that holds what an unlisted address reads as. -/
def Obligations.MemoryCanonical : Prop :=
  ∀ s s' : State, s.mem.wf = true ∧ s.host.wf = true → step s = .next s' → s'.mem.wf = true ∧ s'.host.wf = true

/-- R94, R95, R132 to R134: a register read after a write gives what was written; a write changes the bytes of its register and no other byte
of the scratchpad, so that no two registers overlap; f0 reads all ones and writes to it are ignored. -/
def Obligations.RegisterFile : Prop :=
  ∀ (t : Tile) (d : WReg) (e : VReg) (f : FReg) (x : Word) (y : VWord) (z : FWord),
    let keeps (t' : Tile) := (t'.wp = t.wp ∧ t'.l1 = t.l1 ∧ t'.mat = t.mat ∧ t'.run = t.run ∧ t'.deque = t.deque ∧ t'.meter = t.meter)
    let bytes (t' : Tile) (o n : Nat) := ∀ a, (a < t.base + o ∨ t.base + o + n ≤ a) → t'.sp.get a = t.sp.get a
    let ctls (t' : Tile) := ∀ o, 0x1480 ≤ o → t'.ctl o = t.ctl o
    ((t.setW d x).w d = x ∧ (∀ k, k ≠ d → (t.setW d x).w k = t.w k) ∧ (∀ k, (t.setW d x).v k = t.v k) ∧ (∀ k, (t.setW d x).f k = t.f k)
      ∧ ctls (t.setW d x) ∧ bytes (t.setW d x) (8 * d.val) 8 ∧ keeps (t.setW d x))
    ∧ ((t.setV e y).v e = y ∧ (∀ k, k ≠ e → (t.setV e y).v k = t.v k) ∧ (∀ k, (t.setV e y).w k = t.w k) ∧ (∀ k, (t.setV e y).f k = t.f k)
      ∧ ctls (t.setV e y) ∧ bytes (t.setV e y) (0x200 + 128 * e.val) 128 ∧ keeps (t.setV e y))
    ∧ (t.f 0 = BitVec.allOnes 128 ∧ t.setF 0 z = t)
    ∧ (f ≠ 0 → (t.setF f z).f f = z ∧ (∀ k, k ≠ f → (t.setF f z).f k = t.f k) ∧ (∀ k, (t.setF f z).w k = t.w k)
      ∧ (∀ k, (t.setF f z).v k = t.v k) ∧ ctls (t.setF f z) ∧ bytes (t.setF f z) (0x1200 + 16 * f.val) 16 ∧ keeps (t.setF f z))

/-- R95: whatever the instruction, privileged and trapping ones too, with every bit of its predicate zero it retires alone, unless it is
an mcmd or mswap that has begun and waits for its end. (That one which has begun reads its predicate no more is the model's reading,
log 138.) -/
def Obligations.PredicateOff : Prop :=
  ∀ (s : State) (r : Run), s.Ready r → (s.tile s.cur).msg = none → (s.tile s.cur).swap = none → r.verdict = none → r.swapped = none → ∀ i : Instr, i.wf = true → i.isEvent = false → (s.tile s.cur).predWord i.toRaw.pred = 0 →
    exec i s = .next (s.finish r s)

/-- R86, R132, R137, R149 to R155, R163: the frame of the scalar groups 0x10 to 0x14: the instruction retires and the next slot follows; of the
scratchpad only the destination register, FPFLAGS, LATCH and QCOUNT may differ, of the machine only that tile's counters, and a
gang's mark that the task's part of its quantum has ended when it is a DSM gang's; no memory, no other tile, no special register. -/
def Obligations.ScalarFrame : Prop :=
  ∀ (s : State) (r : Run), s.Ready r → ∀ i : Instr, i.wf = true → i.isEvent = false → 0x10 ≤ i.toRaw.maj.toNat → i.toRaw.maj.toNat ≤ 0x14 →
    let t := s.tile s.cur
    let flag := i.toRaw.maj = 0x12 ∧ i.toRaw.min = 0
    let lo := if flag then 0x1200 + 16 * i.toRaw.d.toNat else 8 * i.toRaw.d.toNat
    let n := if flag then 16 else 8
    ∃ s' : State, exec i s = .next s' ∧ let t' := s'.tile s.cur
      (∀ a, (a < t.base + lo ∨ t.base + lo + n ≤ a) → (a < t.base + 0x1480 ∨ t.base + 0x1488 ≤ a) → (a < t.base + 0x1508 ∨ t.base + 0x1518 ≤ a) →
        t'.sp.get a = t.sp.get a)
      ∧ (s.latched = false → t'.ctl cLATCH = t.ctl cLATCH) ∧ (r.sup = false → s.latched = true → t'.ctl cLATCH = t.ctl cLATCH - 1)
      ∧ (∀ k, k < 64 → (t.ctl cFPFLAGS).getLsbD k = true → (t'.ctl cFPFLAGS).getLsbD k = true)
      ∧ (∃ r', t'.run = some r' ∧ r'.pc = nextPc r.pc ∧ r'.rcd = r.rcd ∧ r'.job = r.job ∧ r'.sup = r.sup ∧ r'.reqs = r.reqs)
      ∧ t'.owner = t.owner ∧ t'.wp = t.wp ∧ t'.sepc = t.sepc ∧ t'.sstat = t.sstat ∧ t'.l1 = t.l1 ∧ t'.tlb = t.tlb ∧ t'.mat = t.mat ∧ t'.deque = t.deque
      ∧ t'.fifo = t.fifo
      ∧ (∀ m, m ≠ s.cur → s'.tile m = s.tile m)
      ∧ s'.mem = s.mem ∧ s'.poison = s.poison ∧ s'.host = s.host ∧ s'.pend = s.pend ∧ s'.dhq = s.dhq ∧ s'.barges = s.barges ∧ s'.polders = s.polders
      ∧ s'.fns = s.fns ∧ s'.sluices = s.sluices ∧ s'.groups = s.groups ∧ s'.ccy = s.ccy ∧ s'.cur = s.cur ∧ s'.inputs = s.inputs
      ∧ ((∀ g, s.runGang r = some g → g.desc.dsm = false) → s'.jobs = s.jobs)
end

