-- ==== Sys2Proof/Laws/Memory.lean ====
section
/-! SUPPORT. Memory.lean: what a read gives after a write, and that every memory operation keeps the canonical form. -/
namespace Sys2Proof.Machine

/-! Reading. -/

theorem Memory.get_append (m n : Memory) (a : Nat) (h : ∀ c ∈ m, c.1 ≠ a) : Memory.get (m ++ n) a = Memory.get n a := by
  induction m with
  | nil => rfl
  | cons c t ih =>
    obtain ⟨k, v⟩ := c
    have hk : k ≠ a := h (k, v) (by simp)
    simp only [List.cons_append, Memory.get, if_neg hk]
    exact ih (fun c hc => h c (by simp [hc]))

theorem Memory.get_append_left (m n : Memory) (a : Nat) (h : ∀ c ∈ n, c.1 ≠ a) : Memory.get (m ++ n) a = Memory.get m a := by
  induction m with
  | nil =>
    have := Memory.get_append n [] a h
    simpa [Memory.get] using this
  | cons c t ih =>
    obtain ⟨k, v⟩ := c
    by_cases hk : k = a
    · simp [Memory.get, hk]
    · simp only [List.cons_append, Memory.get, if_neg hk, ih]

theorem Memory.get_filter (m : Memory) (p : Nat → Bool) (a : Nat) (h : p a = true) :
    Memory.get (m.filter (fun c => p c.1)) a = Memory.get m a := by
  induction m with
  | nil => rfl
  | cons c t ih =>
    obtain ⟨k, v⟩ := c
    by_cases hk : k = a
    · subst hk; simp [List.filter, h, Memory.get]
    · cases hp : p k <;> simp [List.filter, hp, Memory.get, hk, ih]

theorem Memory.get_filter_out (m : Memory) (p : Nat → Bool) (a : Nat) (h : p a = false) :
    Memory.get (m.filter (fun c => p c.1)) a = 0 := by
  induction m with
  | nil => rfl
  | cons c t ih =>
    obtain ⟨k, v⟩ := c
    by_cases hk : k = a
    · subst hk; simpa [List.filter, h] using ih
    · cases hp : p k <;> simp [List.filter, hp, Memory.get, hk, ih]

theorem Memory.cells_ge {a : Nat} {bs : List Byte} : ∀ c ∈ Memory.cells a bs, a ≤ c.1 ∧ c.1 < a + bs.length := by
  induction bs generalizing a with
  | nil => intro c hc; simp [Memory.cells] at hc
  | cons b t ih =>
    intro c hc
    by_cases hb : b = Memory.unlisted
    · simp only [Memory.cells, if_pos hb] at hc
      have := ih c hc
      simp only [List.length_cons]; omega
    · simp only [Memory.cells, if_neg hb, List.mem_cons] at hc
      rcases hc with rfl | hc
      · simp
      · have := ih c hc
        simp only [List.length_cons]; omega

theorem Memory.get_cells (a : Nat) (bs : List Byte) (k : Nat) (h1 : a ≤ k) (h2 : k < a + bs.length) :
    Memory.get (Memory.cells a bs) k = bs.getD (k - a) 0 := by
  induction bs generalizing a with
  | nil => simp at h2; omega
  | cons b t ih =>
    by_cases hk : k = a
    · subst hk
      by_cases hb : b = Memory.unlisted
      · simp only [Memory.cells, if_pos hb]
        have := Memory.get_append (Memory.cells (k + 1) t) [] k (fun c hc => by have := Memory.cells_ge c hc; omega)
        rw [List.append_nil] at this
        rw [this]; simp [Memory.get, hb]
      · simp only [Memory.cells, if_neg hb, Memory.get, if_true, Nat.sub_self, List.getD_cons_zero]
    · have e : k - a = (k - (a + 1)) + 1 := by omega
      have := ih (a + 1) (by omega) (by simp only [List.length_cons] at h2; omega)
      by_cases hb : b = Memory.unlisted
      · simp only [Memory.cells, if_pos hb, this, e, List.getD_cons_succ]
      · simp only [Memory.cells, if_neg hb, Memory.get, if_neg (Ne.symm hk), this, e, List.getD_cons_succ]

/-- A byte read after bytes were laid from `a` upwards. -/
theorem Memory.get_writeBytes (m : Memory) (a : Nat) (bs : List Byte) (k : Nat) :
    (m.writeBytes a bs).get k = if a ≤ k ∧ k < a + bs.length then bs.getD (k - a) 0 else m.get k := by
  unfold Memory.writeBytes
  have hlo : ∀ c ∈ m.filter (fun c => decide (c.1 < a)), c.1 < a := by
    intro c hc; simpa using (List.mem_filter.mp hc).2
  have hhi : ∀ c ∈ m.filter (fun c => decide (a + bs.length ≤ c.1)), a + bs.length ≤ c.1 := by
    intro c hc; simpa using (List.mem_filter.mp hc).2
  by_cases h1 : k < a
  · rw [if_neg (by omega), Memory.get_append_left]
    · exact Memory.get_filter m (fun x => decide (x < a)) k (by simpa using h1)
    · intro c hc
      rcases List.mem_append.mp hc with hc | hc
      · have := Memory.cells_ge c hc; omega
      · have := hhi c hc; omega
  · rw [Memory.get_append _ _ _ (fun c hc => by have := hlo c hc; omega)]
    by_cases h2 : k < a + bs.length
    · rw [if_pos ⟨by omega, h2⟩, Memory.get_append_left _ _ _ (fun c hc => by have := hhi c hc; omega)]
      exact Memory.get_cells a bs k (by omega) h2
    · rw [if_neg (by omega), Memory.get_append _ _ _ (fun c hc => by have := Memory.cells_ge c hc; omega)]
      exact Memory.get_filter m (fun x => decide (a + bs.length ≤ x)) k (by simpa using h2)

theorem Memory.get_writeBytes_out (m : Memory) (a : Nat) (bs : List Byte) (k : Nat) (h : k < a ∨ a + bs.length ≤ k) :
    (m.writeBytes a bs).get k = m.get k := by
  rw [Memory.get_writeBytes, if_neg (by omega)]

theorem Memory.get_zero (m : Memory) (a n k : Nat) :
    (m.zero a n).get k = if a ≤ k ∧ k < a + n then 0 else m.get k := by
  unfold Memory.zero
  by_cases h : a ≤ k ∧ k < a + n
  · rw [if_pos h]
    exact Memory.get_filter_out m (fun x => decide (x < a) || decide (a + n ≤ x)) k (by simp; omega)
  · rw [if_neg h]
    exact Memory.get_filter m (fun x => decide (x < a) || decide (a + n ≤ x)) k (by simp; omega)

theorem Memory.readBytes_congr {m m' : Memory} {a n : Nat} (h : ∀ k, a ≤ k → k < a + n → m.get k = m'.get k) :
    m.readBytes a n = m'.readBytes a n := by
  induction n generalizing a with
  | zero => rfl
  | succ n ih =>
    simp only [Memory.readBytes, h a (by omega) (by omega), List.cons.injEq, true_and]
    exact ih (fun k h1 h2 => h k (by omega) (by omega))

@[simp] theorem Memory.length_readBytes (m : Memory) (a n : Nat) : (m.readBytes a n).length = n := by
  induction n generalizing a with
  | zero => rfl
  | succ n ih => simp [Memory.readBytes, ih]

theorem Memory.readBytes_writeBytes (m : Memory) (a : Nat) (bs : List Byte) : (m.writeBytes a bs).readBytes a bs.length = bs := by
  have : ∀ (n : Nat) (b : Nat), n + b = bs.length → (m.writeBytes a bs).readBytes (a + b) n = bs.drop b := by
    intro n
    induction n with
    | zero => intro b hb; simp [Memory.readBytes, List.drop_eq_nil_of_le (by omega : bs.length ≤ b)]
    | succ n ih =>
      intro b hb
      have hlt : b < bs.length := by omega
      rw [Memory.readBytes, Memory.get_writeBytes, if_pos (by omega), show a + b + 1 = a + (b + 1) by omega, ih (b + 1) (by omega),
        show a + b - a = b by omega, List.drop_eq_getElem_cons hlt]
      simp [List.getD_eq_getElem?_getD, List.getElem?_eq_getElem hlt]
  simpa using this bs.length 0 (by omega)

@[simp] theorem leBytes_length (n v : Nat) : (leBytes n v).length = n := by
  induction n generalizing v with
  | zero => rfl
  | succ n ih => simp [leBytes, ih]

theorem leVal_leBytes (n v : Nat) : leVal (leBytes n v) = v % 256 ^ n := by
  induction n generalizing v with
  | zero => simp [leBytes, leVal, Nat.mod_one]
  | succ n ih =>
    have e : 256 ^ (n + 1) = 256 * 256 ^ n := by rw [Nat.pow_succ]; omega
    rw [leBytes, leVal, ih, BitVec.toNat_ofNat, e, Nat.mod_mul]

theorem Memory.readLE_eq (m : Memory) (a n : Nat) : m.readLE a n = leVal (m.readBytes a n) := by
  unfold Memory.readLE Memory.near
  rw [Memory.readBytes_congr]
  intro k h1 h2
  exact Memory.get_filter m (fun x => decide (a ≤ x) && decide (x < a + n)) k (by simp; omega)

/-- A value read where it was just written. -/
theorem Memory.readLE_writeBytes (m : Memory) (a n v : Nat) : (m.writeBytes a (leBytes n v)).readLE a n = v % 256 ^ n := by
  rw [Memory.readLE_eq]
  have := Memory.readBytes_writeBytes m a (leBytes n v)
  rw [leBytes_length] at this
  rw [this, leVal_leBytes]

/-- A value read away from what was written. -/
theorem Memory.readLE_writeBytes_out (m : Memory) {a b n : Nat} {bs : List Byte} (h : b + n ≤ a ∨ a + bs.length ≤ b) :
    (m.writeBytes a bs).readLE b n = m.readLE b n := by
  rw [Memory.readLE_eq, Memory.readLE_eq, Memory.readBytes_congr]
  intro k h1 h2
  exact Memory.get_writeBytes_out m a bs k (by omega)

/-! The canonical form. -/

theorem Memory.sortedFrom_mono {m : Memory} {a b : Nat} (h : Memory.sortedFrom a m = true) (hb : b ≤ a) :
    Memory.sortedFrom b m = true := by
  cases m with
  | nil => rfl
  | cons c t =>
    obtain ⟨k, v⟩ := c
    simp only [Memory.sortedFrom, Bool.and_eq_true, decide_eq_true_eq] at *
    exact ⟨⟨by omega, h.1.2⟩, h.2⟩

theorem Memory.sortedFrom_filter {m : Memory} {a : Nat} (p : Host.Cell → Bool) (h : Memory.sortedFrom a m = true) :
    Memory.sortedFrom a (m.filter p) = true := by
  induction m generalizing a with
  | nil => rfl
  | cons c t ih =>
    obtain ⟨k, v⟩ := c
    simp only [Memory.sortedFrom, Bool.and_eq_true, decide_eq_true_eq] at h
    cases hp : p (k, v)
    · simp only [List.filter, hp]
      exact Memory.sortedFrom_mono (ih h.2) (by omega)
    · simp only [List.filter, hp, Memory.sortedFrom, Bool.and_eq_true, decide_eq_true_eq]
      exact ⟨h.1, ih h.2⟩

theorem Memory.sortedFrom_append {m n : Memory} {a b : Nat} (hm : Memory.sortedFrom a m = true)
    (hn : Memory.sortedFrom b n = true) (hab : a ≤ b) (hlt : ∀ c ∈ m, c.1 < b) : Memory.sortedFrom a (m ++ n) = true := by
  induction m generalizing a with
  | nil => exact Memory.sortedFrom_mono hn hab
  | cons c t ih =>
    obtain ⟨k, v⟩ := c
    have hk := hlt (k, v) (by simp)
    simp only [List.cons_append, Memory.sortedFrom, Bool.and_eq_true, decide_eq_true_eq] at *
    exact ⟨hm.1, ih hm.2 (by omega) (fun c hc => hlt c (by simp [hc]))⟩

theorem Memory.sortedFrom_cells (a : Nat) (bs : List Byte) : Memory.sortedFrom a (Memory.cells a bs) = true := by
  induction bs generalizing a with
  | nil => rfl
  | cons b t ih =>
    by_cases hb : b = Memory.unlisted
    · simp only [Memory.cells, if_pos hb]
      exact Memory.sortedFrom_mono (ih (a + 1)) (by omega)
    · simp only [Memory.cells, if_neg hb, Memory.sortedFrom, Bool.and_eq_true, decide_eq_true_eq]
      exact ⟨⟨Nat.le_refl a, hb⟩, ih (a + 1)⟩

theorem Memory.sortedFrom_above {m : Memory} {a b : Nat} (h : Memory.sortedFrom a m = true) (hb : ∀ c ∈ m, b ≤ c.1) :
    Memory.sortedFrom b m = true := by
  cases m with
  | nil => rfl
  | cons c t =>
    obtain ⟨k, v⟩ := c
    have := hb (k, v) (by simp)
    simp only [Memory.sortedFrom, Bool.and_eq_true, decide_eq_true_eq] at *
    exact ⟨⟨this, h.1.2⟩, h.2⟩

@[simp] theorem Memory.wf_nil : Memory.wf [] = true := rfl

theorem Memory.wf_filter {m : Memory} (p : Host.Cell → Bool) (h : m.wf = true) : Memory.wf (m.filter p) = true :=
  Memory.sortedFrom_filter p h

/-- Writing bytes keeps the canonical form. -/
theorem Memory.wf_writeBytes {m : Memory} (a : Nat) (bs : List Byte) (h : m.wf = true) : (m.writeBytes a bs).wf = true := by
  unfold Memory.writeBytes Memory.wf
  refine Memory.sortedFrom_append (b := a) (Memory.sortedFrom_filter _ h) ?_ (Nat.zero_le _) ?_
  · refine Memory.sortedFrom_append (b := a + bs.length) (Memory.sortedFrom_cells a bs) ?_ (by omega) ?_
    · exact Memory.sortedFrom_above (Memory.sortedFrom_filter _ h) (fun c hc => by simpa using (List.mem_filter.mp hc).2)
    · intro c hc; exact (Memory.cells_ge c hc).2
  · intro c hc; simpa using (List.mem_filter.mp hc).2

theorem Memory.wf_set {m : Memory} (a : Nat) (b : Byte) (h : m.wf = true) : (m.set a b).wf = true := Memory.wf_writeBytes a [b] h
theorem Memory.wf_writeLE {m : Memory} (a n v : Nat) (h : m.wf = true) : (m.writeLE a n v).wf = true :=
  Memory.wf_writeBytes a _ h
theorem Memory.wf_zero {m : Memory} (a n : Nat) (h : m.wf = true) : (m.zero a n).wf = true := Memory.wf_filter _ h
theorem Memory.wf_near {m : Memory} (a n : Nat) (h : m.wf = true) : (m.near a n).wf = true := Memory.wf_filter _ h

end Sys2Proof.Machine
end

