-- ==== Sys2Proof/Laws/State.lean ====
section
/-! SUPPORT. State.lean: the small laws of State and its accessors, one per field and update. -/
namespace Sys2Proof.Machine

/-! Maps. -/

@[simp] theorem AMap.get?_set_self {α : Type} (m : AMap α) (a : Nat) (x : α) : AMap.get? (AMap.set m a x) a = some x := by
  induction m with
  | nil => simp [AMap.set, AMap.get?]
  | cons e t ih =>
    obtain ⟨k, v⟩ := e
    by_cases h : k = a <;> simp [AMap.set, AMap.get?, h, ih]

theorem AMap.get?_set_ne {α : Type} (m : AMap α) {a b : Nat} (x : α) (h : b ≠ a) :
    AMap.get? (AMap.set m a x) b = AMap.get? m b := by
  induction m with
  | nil => simp [AMap.set, AMap.get?, Ne.symm h]
  | cons e t ih =>
    obtain ⟨k, v⟩ := e
    by_cases hk : k = a
    · subst hk; simp [AMap.set, AMap.get?, Ne.symm h]
    · by_cases hb : k = b
      · subst hb; simp [AMap.set, AMap.get?, hk]
      · simp [AMap.set, AMap.get?, hk, hb, ih]

@[simp] theorem AMap.set_set {α : Type} (m : AMap α) (a : Nat) (x y : α) : AMap.set (AMap.set m a x) a y = AMap.set m a y := by
  induction m with
  | nil => simp [AMap.set]
  | cons e t ih =>
    obtain ⟨k, v⟩ := e
    by_cases h : k = a <;> simp [AMap.set, h, ih]

@[simp] theorem AMap.getD_set_self {α : Type} (m : AMap α) (a : Nat) (x d : α) : AMap.getD (AMap.set m a x) a d = x := by
  simp [AMap.getD]

theorem AMap.getD_set_ne {α : Type} (m : AMap α) {a b : Nat} (x d : α) (h : b ≠ a) :
    AMap.getD (AMap.set m a x) b d = AMap.getD m b d := by
  simp [AMap.getD, AMap.get?_set_ne m x h]

/-! A tile put into the state. -/

@[simp] theorem State.tile_setTile (s : State) (n : Nat) (t : Tile) : (s.setTile n t).tile n = t := by
  simp [State.tile, State.setTile]
theorem State.tile_setTile_ne (s : State) {n m : Nat} (t : Tile) (h : m ≠ n) : (s.setTile n t).tile m = s.tile m := by
  simp [State.tile, State.setTile, AMap.getD_set_ne _ _ _ h]
@[simp] theorem State.setTile_setTile (s : State) (n : Nat) (t u : Tile) : (s.setTile n t).setTile n u = s.setTile n u := by
  simp [State.setTile]

@[simp] theorem State.ccy_setTile (s : State) (n : Nat) (t : Tile) : (s.setTile n t).ccy = s.ccy := rfl
@[simp] theorem State.inputs_setTile (s : State) (n : Nat) (t : Tile) : (s.setTile n t).inputs = s.inputs := rfl
@[simp] theorem State.cur_setTile (s : State) (n : Nat) (t : Tile) : (s.setTile n t).cur = s.cur := rfl
@[simp] theorem State.draws_setTile (s : State) (n : Nat) (t : Tile) : (s.setTile n t).draws = s.draws := rfl
@[simp] theorem State.timers_setTile (s : State) (n : Nat) (t : Tile) : (s.setTile n t).timers = s.timers := rfl
@[simp] theorem State.disc_setTile (s : State) (n : Nat) (t : Tile) : (s.setTile n t).disc = s.disc := rfl
@[simp] theorem State.mem_setTile (s : State) (n : Nat) (t : Tile) : (s.setTile n t).mem = s.mem := rfl
@[simp] theorem State.poison_setTile (s : State) (n : Nat) (t : Tile) : (s.setTile n t).poison = s.poison := rfl
@[simp] theorem State.host_setTile (s : State) (n : Nat) (t : Tile) : (s.setTile n t).host = s.host := rfl
@[simp] theorem State.hostReads_setTile (s : State) (n : Nat) (t : Tile) : (s.setTile n t).hostReads = s.hostReads := rfl
@[simp] theorem State.hostHoles_setTile (s : State) (n : Nat) (t : Tile) : (s.setTile n t).hostHoles = s.hostHoles := rfl
@[simp] theorem State.pend_setTile (s : State) (n : Nat) (t : Tile) : (s.setTile n t).pend = s.pend := rfl
@[simp] theorem State.dhq_setTile (s : State) (n : Nat) (t : Tile) : (s.setTile n t).dhq = s.dhq := rfl
@[simp] theorem State.dhClock_setTile (s : State) (n : Nat) (t : Tile) : (s.setTile n t).dhClock = s.dhClock := rfl
@[simp] theorem State.dhLast_setTile (s : State) (n : Nat) (t : Tile) : (s.setTile n t).dhLast = s.dhLast := rfl
@[simp] theorem State.coldTile_setTile (s : State) (n : Nat) (t : Tile) : (s.setTile n t).coldTile = s.coldTile := rfl
@[simp] theorem State.coldPolder_setTile (s : State) (n : Nat) (t : Tile) : (s.setTile n t).coldPolder = s.coldPolder := rfl
@[simp] theorem State.qtlb_setTile (s : State) (n : Nat) (t : Tile) : (s.setTile n t).qtlb = s.qtlb := rfl
@[simp] theorem State.jobs_setTile (s : State) (n : Nat) (t : Tile) : (s.setTile n t).jobs = s.jobs := rfl
@[simp] theorem State.polders_setTile (s : State) (n : Nat) (t : Tile) : (s.setTile n t).polders = s.polders := rfl
@[simp] theorem State.barges_setTile (s : State) (n : Nat) (t : Tile) : (s.setTile n t).barges = s.barges := rfl
@[simp] theorem State.nbarge_setTile (s : State) (n : Nat) (t : Tile) : (s.setTile n t).nbarge = s.nbarge := rfl
@[simp] theorem State.fns_setTile (s : State) (n : Nat) (t : Tile) : (s.setTile n t).fns = s.fns := rfl
@[simp] theorem State.sluices_setTile (s : State) (n : Nat) (t : Tile) : (s.setTile n t).sluices = s.sluices := rfl
@[simp] theorem State.groups_setTile (s : State) (n : Nat) (t : Tile) : (s.setTile n t).groups = s.groups := rfl
@[simp] theorem State.power_setTile (s : State) (n : Nat) (t : Tile) : (s.setTile n t).power = s.power := rfl
@[simp] theorem State.fabric_setTile (s : State) (n : Nat) (t : Tile) : (s.setTile n t).fabric = s.fabric := rfl
@[simp] theorem State.beats_setTile (s : State) (n : Nat) (t : Tile) : (s.setTile n t).beats = s.beats := rfl
@[simp] theorem State.meas_setTile (s : State) (n : Nat) (t : Tile) : (s.setTile n t).meas = s.meas := rfl
@[simp] theorem State.lifecycle_setTile (s : State) (n : Nat) (t : Tile) : (s.setTile n t).lifecycle = s.lifecycle := rfl
@[simp] theorem State.lcseq_setTile (s : State) (n : Nat) (t : Tile) : (s.setTile n t).lcseq = s.lcseq := rfl
@[simp] theorem State.ownerKey_setTile (s : State) (n : Nat) (t : Tile) : (s.setTile n t).ownerKey = s.ownerKey := rfl
@[simp] theorem State.keysErased_setTile (s : State) (n : Nat) (t : Tile) : (s.setTile n t).keysErased = s.keysErased := rfl
@[simp] theorem State.spdm_setTile (s : State) (n : Nat) (t : Tile) : (s.setTile n t).spdm = s.spdm := rfl
@[simp] theorem State.firmware_setTile (s : State) (n : Nat) (t : Tile) : (s.setTile n t).firmware = s.firmware := rfl
@[simp] theorem State.keyEpoch_setTile (s : State) (n : Nat) (t : Tile) : (s.setTile n t).keyEpoch = s.keyEpoch := rfl
@[simp] theorem State.poweredDown_setTile (s : State) (n : Nat) (t : Tile) : (s.setTile n t).poweredDown = s.poweredDown := rfl
@[simp] theorem State.thermal_setTile (s : State) (n : Nat) (t : Tile) : (s.setTile n t).thermal = s.thermal := rfl
@[simp] theorem State.hostLost_setTile (s : State) (n : Nat) (t : Tile) : (s.setTile n t).hostLost = s.hostLost := rfl

@[simp] theorem State.ccy_setJob (s : State) (n : Nat) (j : Job) : (s.setJob n j).ccy = s.ccy := rfl
@[simp] theorem State.inputs_setJob (s : State) (n : Nat) (j : Job) : (s.setJob n j).inputs = s.inputs := rfl
@[simp] theorem State.cur_setJob (s : State) (n : Nat) (j : Job) : (s.setJob n j).cur = s.cur := rfl
@[simp] theorem State.draws_setJob (s : State) (n : Nat) (j : Job) : (s.setJob n j).draws = s.draws := rfl
@[simp] theorem State.timers_setJob (s : State) (n : Nat) (j : Job) : (s.setJob n j).timers = s.timers := rfl
@[simp] theorem State.disc_setJob (s : State) (n : Nat) (j : Job) : (s.setJob n j).disc = s.disc := rfl
@[simp] theorem State.mem_setJob (s : State) (n : Nat) (j : Job) : (s.setJob n j).mem = s.mem := rfl
@[simp] theorem State.poison_setJob (s : State) (n : Nat) (j : Job) : (s.setJob n j).poison = s.poison := rfl
@[simp] theorem State.host_setJob (s : State) (n : Nat) (j : Job) : (s.setJob n j).host = s.host := rfl
@[simp] theorem State.hostReads_setJob (s : State) (n : Nat) (j : Job) : (s.setJob n j).hostReads = s.hostReads := rfl
@[simp] theorem State.hostHoles_setJob (s : State) (n : Nat) (j : Job) : (s.setJob n j).hostHoles = s.hostHoles := rfl
@[simp] theorem State.pend_setJob (s : State) (n : Nat) (j : Job) : (s.setJob n j).pend = s.pend := rfl
@[simp] theorem State.dhq_setJob (s : State) (n : Nat) (j : Job) : (s.setJob n j).dhq = s.dhq := rfl
@[simp] theorem State.dhClock_setJob (s : State) (n : Nat) (j : Job) : (s.setJob n j).dhClock = s.dhClock := rfl
@[simp] theorem State.dhLast_setJob (s : State) (n : Nat) (j : Job) : (s.setJob n j).dhLast = s.dhLast := rfl
@[simp] theorem State.coldTile_setJob (s : State) (n : Nat) (j : Job) : (s.setJob n j).coldTile = s.coldTile := rfl
@[simp] theorem State.coldPolder_setJob (s : State) (n : Nat) (j : Job) : (s.setJob n j).coldPolder = s.coldPolder := rfl
@[simp] theorem State.qtlb_setJob (s : State) (n : Nat) (j : Job) : (s.setJob n j).qtlb = s.qtlb := rfl
@[simp] theorem State.tiles_setJob (s : State) (n : Nat) (j : Job) : (s.setJob n j).tiles = s.tiles := rfl
@[simp] theorem State.polders_setJob (s : State) (n : Nat) (j : Job) : (s.setJob n j).polders = s.polders := rfl
@[simp] theorem State.barges_setJob (s : State) (n : Nat) (j : Job) : (s.setJob n j).barges = s.barges := rfl
@[simp] theorem State.nbarge_setJob (s : State) (n : Nat) (j : Job) : (s.setJob n j).nbarge = s.nbarge := rfl
@[simp] theorem State.fns_setJob (s : State) (n : Nat) (j : Job) : (s.setJob n j).fns = s.fns := rfl
@[simp] theorem State.sluices_setJob (s : State) (n : Nat) (j : Job) : (s.setJob n j).sluices = s.sluices := rfl
@[simp] theorem State.groups_setJob (s : State) (n : Nat) (j : Job) : (s.setJob n j).groups = s.groups := rfl
@[simp] theorem State.power_setJob (s : State) (n : Nat) (j : Job) : (s.setJob n j).power = s.power := rfl
@[simp] theorem State.fabric_setJob (s : State) (n : Nat) (j : Job) : (s.setJob n j).fabric = s.fabric := rfl
@[simp] theorem State.beats_setJob (s : State) (n : Nat) (j : Job) : (s.setJob n j).beats = s.beats := rfl
@[simp] theorem State.meas_setJob (s : State) (n : Nat) (j : Job) : (s.setJob n j).meas = s.meas := rfl
@[simp] theorem State.lifecycle_setJob (s : State) (n : Nat) (j : Job) : (s.setJob n j).lifecycle = s.lifecycle := rfl
@[simp] theorem State.lcseq_setJob (s : State) (n : Nat) (j : Job) : (s.setJob n j).lcseq = s.lcseq := rfl
@[simp] theorem State.ownerKey_setJob (s : State) (n : Nat) (j : Job) : (s.setJob n j).ownerKey = s.ownerKey := rfl
@[simp] theorem State.keysErased_setJob (s : State) (n : Nat) (j : Job) : (s.setJob n j).keysErased = s.keysErased := rfl
@[simp] theorem State.spdm_setJob (s : State) (n : Nat) (j : Job) : (s.setJob n j).spdm = s.spdm := rfl
@[simp] theorem State.firmware_setJob (s : State) (n : Nat) (j : Job) : (s.setJob n j).firmware = s.firmware := rfl
@[simp] theorem State.keyEpoch_setJob (s : State) (n : Nat) (j : Job) : (s.setJob n j).keyEpoch = s.keyEpoch := rfl
@[simp] theorem State.poweredDown_setJob (s : State) (n : Nat) (j : Job) : (s.setJob n j).poweredDown = s.poweredDown := rfl
@[simp] theorem State.thermal_setJob (s : State) (n : Nat) (j : Job) : (s.setJob n j).thermal = s.thermal := rfl
@[simp] theorem State.hostLost_setJob (s : State) (n : Nat) (j : Job) : (s.setJob n j).hostLost = s.hostLost := rfl
@[simp] theorem State.tile_setJob (s : State) (n k : Nat) (j : Job) : (s.setJob n j).tile k = s.tile k := rfl
@[simp] theorem State.job?_setTile (s : State) (n k : Nat) (t : Tile) : (s.setTile n t).job? k = s.job? k := rfl
@[simp] theorem State.job?_setJob (s : State) (n : Nat) (j : Job) : (s.setJob n j).job? n = some j := by
  simp [State.job?, State.setJob]
theorem State.job?_setJob_ne (s : State) {n m : Nat} (j : Job) (h : m ≠ n) : (s.setJob n j).job? m = s.job? m := by
  simp [State.job?, State.setJob, AMap.get?_set_ne _ _ h]
@[simp] theorem State.fn_setFn (s : State) (n : Nat) (f : Fn) : (s.setFn n f).fn n = f := by
  simp [State.fn, State.setFn]
theorem State.fn_setFn_ne (s : State) {n m : Nat} (f : Fn) (h : m ≠ n) : (s.setFn n f).fn m = s.fn m := by
  simp [State.fn, State.setFn, AMap.getD_set_ne _ _ _ h]
@[simp] theorem State.polder?_setPolder (s : State) (n : Nat) (p : Polder) : (s.setPolder n p).polder? n = some p := by
  simp [State.polder?, State.setPolder]
@[simp] theorem State.sluice_setSluice (s : State) (n : Nat) (x : Sluice) : (s.setSluice n x).sluice n = x := by
  simp [State.sluice, State.setSluice]
@[simp] theorem Job.stream_setStream (j : Job) (n : Nat) (x : Stream) : (j.setStream n x).stream n = x := by
  simp [Job.stream, Job.setStream]
@[simp] theorem Job.gang?_setGang (j : Job) (n : Nat) (g : Gang) : (j.setGang n g).gang? n = some g := by
  simp [Job.gang?, Job.setGang]
@[simp] theorem State.ccy_setFn (s : State) (n : Nat) (f : Fn) : (s.setFn n f).ccy = s.ccy := rfl
@[simp] theorem State.inputs_setFn (s : State) (n : Nat) (f : Fn) : (s.setFn n f).inputs = s.inputs := rfl
@[simp] theorem State.cur_setFn (s : State) (n : Nat) (f : Fn) : (s.setFn n f).cur = s.cur := rfl
@[simp] theorem State.draws_setFn (s : State) (n : Nat) (f : Fn) : (s.setFn n f).draws = s.draws := rfl
@[simp] theorem State.timers_setFn (s : State) (n : Nat) (f : Fn) : (s.setFn n f).timers = s.timers := rfl
@[simp] theorem State.disc_setFn (s : State) (n : Nat) (f : Fn) : (s.setFn n f).disc = s.disc := rfl
@[simp] theorem State.mem_setFn (s : State) (n : Nat) (f : Fn) : (s.setFn n f).mem = s.mem := rfl
@[simp] theorem State.poison_setFn (s : State) (n : Nat) (f : Fn) : (s.setFn n f).poison = s.poison := rfl
@[simp] theorem State.host_setFn (s : State) (n : Nat) (f : Fn) : (s.setFn n f).host = s.host := rfl
@[simp] theorem State.hostReads_setFn (s : State) (n : Nat) (f : Fn) : (s.setFn n f).hostReads = s.hostReads := rfl
@[simp] theorem State.hostHoles_setFn (s : State) (n : Nat) (f : Fn) : (s.setFn n f).hostHoles = s.hostHoles := rfl
@[simp] theorem State.pend_setFn (s : State) (n : Nat) (f : Fn) : (s.setFn n f).pend = s.pend := rfl
@[simp] theorem State.dhq_setFn (s : State) (n : Nat) (f : Fn) : (s.setFn n f).dhq = s.dhq := rfl
@[simp] theorem State.dhClock_setFn (s : State) (n : Nat) (f : Fn) : (s.setFn n f).dhClock = s.dhClock := rfl
@[simp] theorem State.dhLast_setFn (s : State) (n : Nat) (f : Fn) : (s.setFn n f).dhLast = s.dhLast := rfl
@[simp] theorem State.coldTile_setFn (s : State) (n : Nat) (f : Fn) : (s.setFn n f).coldTile = s.coldTile := rfl
@[simp] theorem State.coldPolder_setFn (s : State) (n : Nat) (f : Fn) : (s.setFn n f).coldPolder = s.coldPolder := rfl
@[simp] theorem State.qtlb_setFn (s : State) (n : Nat) (f : Fn) : (s.setFn n f).qtlb = s.qtlb := rfl
@[simp] theorem State.tiles_setFn (s : State) (n : Nat) (f : Fn) : (s.setFn n f).tiles = s.tiles := rfl
@[simp] theorem State.jobs_setFn (s : State) (n : Nat) (f : Fn) : (s.setFn n f).jobs = s.jobs := rfl
@[simp] theorem State.polders_setFn (s : State) (n : Nat) (f : Fn) : (s.setFn n f).polders = s.polders := rfl
@[simp] theorem State.barges_setFn (s : State) (n : Nat) (f : Fn) : (s.setFn n f).barges = s.barges := rfl
@[simp] theorem State.nbarge_setFn (s : State) (n : Nat) (f : Fn) : (s.setFn n f).nbarge = s.nbarge := rfl
@[simp] theorem State.sluices_setFn (s : State) (n : Nat) (f : Fn) : (s.setFn n f).sluices = s.sluices := rfl
@[simp] theorem State.groups_setFn (s : State) (n : Nat) (f : Fn) : (s.setFn n f).groups = s.groups := rfl
@[simp] theorem State.power_setFn (s : State) (n : Nat) (f : Fn) : (s.setFn n f).power = s.power := rfl
@[simp] theorem State.fabric_setFn (s : State) (n : Nat) (f : Fn) : (s.setFn n f).fabric = s.fabric := rfl
@[simp] theorem State.beats_setFn (s : State) (n : Nat) (f : Fn) : (s.setFn n f).beats = s.beats := rfl
@[simp] theorem State.meas_setFn (s : State) (n : Nat) (f : Fn) : (s.setFn n f).meas = s.meas := rfl
@[simp] theorem State.lifecycle_setFn (s : State) (n : Nat) (f : Fn) : (s.setFn n f).lifecycle = s.lifecycle := rfl
@[simp] theorem State.lcseq_setFn (s : State) (n : Nat) (f : Fn) : (s.setFn n f).lcseq = s.lcseq := rfl
@[simp] theorem State.ownerKey_setFn (s : State) (n : Nat) (f : Fn) : (s.setFn n f).ownerKey = s.ownerKey := rfl
@[simp] theorem State.keysErased_setFn (s : State) (n : Nat) (f : Fn) : (s.setFn n f).keysErased = s.keysErased := rfl
@[simp] theorem State.spdm_setFn (s : State) (n : Nat) (f : Fn) : (s.setFn n f).spdm = s.spdm := rfl
@[simp] theorem State.firmware_setFn (s : State) (n : Nat) (f : Fn) : (s.setFn n f).firmware = s.firmware := rfl
@[simp] theorem State.keyEpoch_setFn (s : State) (n : Nat) (f : Fn) : (s.setFn n f).keyEpoch = s.keyEpoch := rfl
@[simp] theorem State.poweredDown_setFn (s : State) (n : Nat) (f : Fn) : (s.setFn n f).poweredDown = s.poweredDown := rfl
@[simp] theorem State.thermal_setFn (s : State) (n : Nat) (f : Fn) : (s.setFn n f).thermal = s.thermal := rfl
@[simp] theorem State.hostLost_setFn (s : State) (n : Nat) (f : Fn) : (s.setFn n f).hostLost = s.hostLost := rfl

/-! Bytes put into a scratchpad. -/

@[simp] theorem Tile.owner_putSp (t : Tile) (a : Nat) (bs : List Byte) : (t.putSp a bs).owner = t.owner := rfl
@[simp] theorem Tile.tenure_putSp (t : Tile) (a : Nat) (bs : List Byte) : (t.putSp a bs).tenure = t.tenure := rfl
@[simp] theorem Tile.pres_putSp (t : Tile) (a : Nat) (bs : List Byte) : (t.putSp a bs).pres = t.pres := rfl
@[simp] theorem Tile.strip_putSp (t : Tile) (a : Nat) (bs : List Byte) : (t.putSp a bs).strip = t.strip := rfl
@[simp] theorem Tile.idle_putSp (t : Tile) (a : Nat) (bs : List Byte) : (t.putSp a bs).idle = t.idle := rfl
@[simp] theorem Tile.unrestricted_putSp (t : Tile) (a : Nat) (bs : List Byte) : (t.putSp a bs).unrestricted = t.unrestricted := rfl
@[simp] theorem Tile.wp_putSp (t : Tile) (a : Nat) (bs : List Byte) : (t.putSp a bs).wp = t.wp := rfl
@[simp] theorem Tile.sepc_putSp (t : Tile) (a : Nat) (bs : List Byte) : (t.putSp a bs).sepc = t.sepc := rfl
@[simp] theorem Tile.sstat_putSp (t : Tile) (a : Nat) (bs : List Byte) : (t.putSp a bs).sstat = t.sstat := rfl
@[simp] theorem Tile.run_putSp (t : Tile) (a : Nat) (bs : List Byte) : (t.putSp a bs).run = t.run := rfl
@[simp] theorem Tile.root_putSp (t : Tile) (a : Nat) (bs : List Byte) : (t.putSp a bs).root = t.root := rfl
@[simp] theorem Tile.deque_putSp (t : Tile) (a : Nat) (bs : List Byte) : (t.putSp a bs).deque = t.deque := rfl
@[simp] theorem Tile.l1_putSp (t : Tile) (a : Nat) (bs : List Byte) : (t.putSp a bs).l1 = t.l1 := rfl
@[simp] theorem Tile.slots_putSp (t : Tile) (a : Nat) (bs : List Byte) : (t.putSp a bs).slots = t.slots := rfl
@[simp] theorem Tile.icache_putSp (t : Tile) (a : Nat) (bs : List Byte) : (t.putSp a bs).icache = t.icache := rfl
@[simp] theorem Tile.fbuf_putSp (t : Tile) (a : Nat) (bs : List Byte) : (t.putSp a bs).fbuf = t.fbuf := rfl
@[simp] theorem Tile.ccache_putSp (t : Tile) (a : Nat) (bs : List Byte) : (t.putSp a bs).ccache = t.ccache := rfl
@[simp] theorem Tile.tlb_putSp (t : Tile) (a : Nat) (bs : List Byte) : (t.putSp a bs).tlb = t.tlb := rfl
@[simp] theorem Tile.mat_putSp (t : Tile) (a : Nat) (bs : List Byte) : (t.putSp a bs).mat = t.mat := rfl
@[simp] theorem Tile.matClean_putSp (t : Tile) (a : Nat) (bs : List Byte) : (t.putSp a bs).matClean = t.matClean := rfl
@[simp] theorem Tile.mq_putSp (t : Tile) (a : Nat) (bs : List Byte) : (t.putSp a bs).mq = t.mq := rfl
@[simp] theorem Tile.fifo_putSp (t : Tile) (a : Nat) (bs : List Byte) : (t.putSp a bs).fifo = t.fifo := rfl
@[simp] theorem Tile.msg_putSp (t : Tile) (a : Nat) (bs : List Byte) : (t.putSp a bs).msg = t.msg := rfl
@[simp] theorem Tile.swap_putSp (t : Tile) (a : Nat) (bs : List Byte) : (t.putSp a bs).swap = t.swap := rfl
@[simp] theorem Tile.saved_putSp (t : Tile) (a : Nat) (bs : List Byte) : (t.putSp a bs).saved = t.saved := rfl
@[simp] theorem Tile.journaling_putSp (t : Tile) (a : Nat) (bs : List Byte) : (t.putSp a bs).journaling = t.journaling := rfl
@[simp] theorem Tile.mregs_putSp (t : Tile) (a : Nat) (bs : List Byte) : (t.putSp a bs).mregs = t.mregs := rfl
@[simp] theorem Tile.taint_putSp (t : Tile) (a : Nat) (bs : List Byte) : (t.putSp a bs).taint = t.taint := rfl
@[simp] theorem Tile.testing_putSp (t : Tile) (a : Nat) (bs : List Byte) : (t.putSp a bs).testing = t.testing := rfl
@[simp] theorem Tile.tested_putSp (t : Tile) (a : Nat) (bs : List Byte) : (t.putSp a bs).tested = t.tested := rfl
@[simp] theorem Tile.meter_putSp (t : Tile) (a : Nat) (bs : List Byte) : (t.putSp a bs).meter = t.meter := rfl
@[simp] theorem Tile.total_putSp (t : Tile) (a : Nat) (bs : List Byte) : (t.putSp a bs).total = t.total := rfl
@[simp] theorem Tile.cess_putSp (t : Tile) (a : Nat) (bs : List Byte) : (t.putSp a bs).cess = t.cess := rfl
@[simp] theorem Tile.dying_putSp (t : Tile) (a : Nat) (bs : List Byte) : (t.putSp a bs).dying = t.dying := rfl
@[simp] theorem Tile.sp_putSp (t : Tile) (a : Nat) (bs : List Byte) : (t.putSp a bs).sp = t.sp.writeBytes a bs := rfl
@[simp] theorem Tile.base_putSp (t : Tile) (a : Nat) (bs : List Byte) : (t.putSp a bs).base = t.base := rfl
@[simp] theorem Tile.run_setW (t : Tile) (k : WReg) (v : Word) : (t.setW k v).run = t.run := rfl
@[simp] theorem Tile.wp_setW (t : Tile) (k : WReg) (v : Word) : (t.setW k v).wp = t.wp := rfl
@[simp] theorem Tile.base_setW (t : Tile) (k : WReg) (v : Word) : (t.setW k v).base = t.base := rfl
@[simp] theorem Tile.owner_setW (t : Tile) (k : WReg) (v : Word) : (t.setW k v).owner = t.owner := rfl
@[simp] theorem Tile.tenure_setW (t : Tile) (k : WReg) (v : Word) : (t.setW k v).tenure = t.tenure := rfl
@[simp] theorem Tile.deque_setW (t : Tile) (k : WReg) (v : Word) : (t.setW k v).deque = t.deque := rfl
@[simp] theorem Tile.l1_setW (t : Tile) (k : WReg) (v : Word) : (t.setW k v).l1 = t.l1 := rfl
@[simp] theorem Tile.mat_setW (t : Tile) (k : WReg) (v : Word) : (t.setW k v).mat = t.mat := rfl
@[simp] theorem Tile.run_setV (t : Tile) (k : VReg) (v : VWord) : (t.setV k v).run = t.run := rfl
@[simp] theorem Tile.wp_setV (t : Tile) (k : VReg) (v : VWord) : (t.setV k v).wp = t.wp := rfl
@[simp] theorem Tile.base_setV (t : Tile) (k : VReg) (v : VWord) : (t.setV k v).base = t.base := rfl
@[simp] theorem Tile.owner_setV (t : Tile) (k : VReg) (v : VWord) : (t.setV k v).owner = t.owner := rfl
@[simp] theorem Tile.tenure_setV (t : Tile) (k : VReg) (v : VWord) : (t.setV k v).tenure = t.tenure := rfl
@[simp] theorem Tile.deque_setV (t : Tile) (k : VReg) (v : VWord) : (t.setV k v).deque = t.deque := rfl
@[simp] theorem Tile.l1_setV (t : Tile) (k : VReg) (v : VWord) : (t.setV k v).l1 = t.l1 := rfl
@[simp] theorem Tile.mat_setV (t : Tile) (k : VReg) (v : VWord) : (t.setV k v).mat = t.mat := rfl
@[simp] theorem Tile.run_setCtl (t : Tile) (k : Nat) (v : Word) : (t.setCtl k v).run = t.run := rfl
@[simp] theorem Tile.wp_setCtl (t : Tile) (k : Nat) (v : Word) : (t.setCtl k v).wp = t.wp := rfl
@[simp] theorem Tile.base_setCtl (t : Tile) (k : Nat) (v : Word) : (t.setCtl k v).base = t.base := rfl
@[simp] theorem Tile.owner_setCtl (t : Tile) (k : Nat) (v : Word) : (t.setCtl k v).owner = t.owner := rfl
@[simp] theorem Tile.tenure_setCtl (t : Tile) (k : Nat) (v : Word) : (t.setCtl k v).tenure = t.tenure := rfl
@[simp] theorem Tile.deque_setCtl (t : Tile) (k : Nat) (v : Word) : (t.setCtl k v).deque = t.deque := rfl
@[simp] theorem Tile.l1_setCtl (t : Tile) (k : Nat) (v : Word) : (t.setCtl k v).l1 = t.l1 := rfl
@[simp] theorem Tile.mat_setCtl (t : Tile) (k : Nat) (v : Word) : (t.setCtl k v).mat = t.mat := rfl
@[simp] theorem Tile.run_setF (t : Tile) (k : FReg) (v : FWord) : (t.setF k v).run = t.run := by
  unfold Tile.setF; split <;> rfl
@[simp] theorem Tile.wp_setF (t : Tile) (k : FReg) (v : FWord) : (t.setF k v).wp = t.wp := by
  unfold Tile.setF; split <;> rfl
@[simp] theorem Tile.run_stick (t : Tile) (f : Fl) : (t.stick f).run = t.run := by
  unfold Tile.stick; split <;> rfl
@[simp] theorem Tile.wp_stick (t : Tile) (f : Fl) : (t.stick f).wp = t.wp := by
  unfold Tile.stick; split <;> rfl

end Sys2Proof.Machine
end

