-- ==== Sys2Proof/Laws/Ready.lean ====
section
/-! SUPPORT. Ready.lean: what the shared operations answer for a task whose registers are free, and how an instruction that
completes ends. -/
namespace Sys2Proof.Machine

theorem Channel.blocks_mono {c : Channel} {tile a n a' n' : Nat} (h : c.blocks tile a n = false)
    (h1 : a ≤ a') (h2 : a' + n' ≤ a + n) : c.blocks tile a' n' = false := by
  simp only [Channel.blocks, Bool.and_eq_false_iff, Bool.or_eq_false_iff, decide_eq_false_iff_not] at *
  rcases h with h | ⟨⟨h, h3⟩, h4⟩
  · left; omega
  · by_cases hlo : max (max c.wm c.dst) a' < min (a' + n') (c.dst + c.len)
    · right; exact ⟨⟨h, by omega⟩, by omega⟩
    · left; exact hlo

theorem Tile.spBad_mono {t : Tile} {a n a' n' : Nat} (h : t.spBad a n = false)
    (h1 : a ≤ a') (h2 : a' + n' ≤ a + n) : t.spBad a' n' = false := by
  simp only [Tile.spBad, List.any_eq_false, Bool.and_eq_true, decide_eq_true_eq] at *
  intro u hu
  have := h u hu
  omega

/-- No channel holds back a byte of the workspace. -/
theorem chanWait_ready {s : State} {r : Run} (h : s.Ready r) {a n : Nat}
    (h1 : Config.spBase + (s.tile s.cur).base ≤ a) (h2 : a + n ≤ Config.spBase + (s.tile s.cur).base + Config.frameSize) :
    chanWait a n s = .ok ((), s) := by
  have hf := h.free
  simp only [State.regsFree, Bool.and_eq_true, Bool.not_eq_true'] at hf
  obtain ⟨⟨⟨-, hb⟩, -⟩, -⟩ := hf
  unfold chanWait
  rw [h.run]
  have : s.barges.any (fun (b : Barge) => decide (b.job = r.job) && decide (b.gang = r.gid) && b.failed.isNone
        && b.chans.any (fun c => c.blocks s.cur a n)) = false := by
    rw [List.any_eq_false]
    intro b hb'
    rw [List.any_eq_false] at hb
    have := hb b hb'
    simp only [Bool.and_eq_true, not_and, Bool.not_eq_true, List.any_eq_false] at this ⊢
    intro hx c hc
    exact Channel.blocks_mono (by simpa using this hx c hc) h1 (by omega)
  simp only [this, Bool.false_eq_true, if_false]

/-- Bytes of the workspace read as registers answer at once. -/
theorem regBytes_ready {s : State} {r : Run} (h : s.Ready r) {o n : Nat}
    (h1 : (s.tile s.cur).base ≤ o) (h2 : o + n ≤ (s.tile s.cur).base + Config.frameSize) :
    regBytes o n s = .ok ((), s) := by
  have hf := h.free
  simp only [State.regsFree, Bool.and_eq_true, Bool.not_eq_true'] at hf
  obtain ⟨⟨⟨hp, -⟩, -⟩, -⟩ := hf
  have := chanWait_ready h (a := Config.spBase + o) (n := n) (by omega) (by omega)
  have hq := Tile.spBad_mono hp h1 h2
  simp [regBytes, bind, StateT.bind, Except.bind, this, tileM, hq, pure, StateT.pure, Except.pure]

theorem promiseWait_ready {s : State} {r : Run} (h : s.Ready r) (k : WReg) : s.promiseWait k = false := by
  have hf := h.free
  simp only [State.regsFree, Bool.and_eq_true, Bool.not_eq_true'] at hf
  obtain ⟨⟨-, hb⟩, -⟩ := hf
  unfold State.promiseWait
  rw [h.run]
  rw [List.any_eq_false] at hb ⊢
  intro b hb'
  have := hb b hb'
  simp only [Bool.and_eq_true, decide_eq_true_eq] at this ⊢
  rintro ⟨⟨⟨hx, _⟩, hy⟩, hz⟩
  exact this ⟨⟨hx, hy⟩, hz⟩

theorem rdW_ready {s : State} {r : Run} (h : s.Ready r) (k : WReg) : rdW k s = .ok ((s.tile s.cur).w k, s) := by
  have := regBytes_ready h (o := (s.tile s.cur).wAt k) (n := 8) (by simp [Tile.wAt])
    (by have := k.isLt; simp only [Tile.wAt, Config.frameSize]; omega)
  simp [rdW, bind, StateT.bind, Except.bind, this, tileM, promiseWait_ready h k, pure, StateT.pure, Except.pure, get, getThe,
    MonadStateOf.get, StateT.get]

theorem rdV_ready {s : State} {r : Run} (h : s.Ready r) (k : VReg) : rdV k s = .ok ((s.tile s.cur).v k, s) := by
  have := regBytes_ready h (o := (s.tile s.cur).vAt k) (n := 128) (by simp only [Tile.vAt]; omega)
    (by have := k.isLt; simp only [Tile.vAt, offV, Config.frameSize]; omega)
  simp [rdV, bind, StateT.bind, Except.bind, this, tileM, pure, StateT.pure, Except.pure]

theorem rdF_ready {s : State} {r : Run} (h : s.Ready r) (k : FReg) : rdF k s = .ok ((s.tile s.cur).f k, s) := by
  have := regBytes_ready h (o := (s.tile s.cur).fAt k) (n := 16) (by simp only [Tile.fAt]; omega)
    (by have := k.isLt; simp only [Tile.fAt, offF, Config.frameSize]; omega)
  by_cases hk : k = 0
  · simp [rdF, bind, StateT.bind, Except.bind, tileM, pure, StateT.pure, Except.pure, hk, Tile.f]
  · simp [rdF, bind, StateT.bind, Except.bind, this, tileM, pure, StateT.pure, Except.pure, hk]

theorem rdB_ready {s : State} {r : Run} (h : s.Ready r) (b : OpB) : rdB b s = .ok ((s.tile s.cur).opB b, s) := by
  cases b with
  | reg b => simpa [rdB, Tile.opB] using rdW_ready h b
  | imm v => rfl

theorem rdPred_ready {s : State} {r : Run} (h : s.Ready r) (p : Pred) : rdPred p s = .ok ((s.tile s.cur).predWord p, s) := by
  simp [rdPred, bind, StateT.bind, Except.bind, rdF_ready h p.f, pure, StateT.pure, Except.pure, Tile.predWord]

/-- A register write of a task whose registers are free waits for no request. -/
theorem holdWrites_ready {s : State} {r : Run} (h : s.Ready r) (x : Except Exn (Flow × State)) : holdWrites s r x = x := by
  have hf := h.free
  simp only [State.regsFree, Bool.and_eq_true, List.isEmpty_iff] at hf
  have hc (s' : State) : s.readsChanged s' r = false := by simp [State.readsChanged, hf.2]
  unfold holdWrites
  split <;> simp [hc]

theorem runM_ready {s : State} {r : Run} (h : s.Ready r) : runM s = .ok (r, s) := by
  simp [runM, h.run]

theorem tileM_eq (s : State) : tileM s = .ok (s.tile s.cur, s) := rfl
theorem modTile_eq (f : Tile → Tile) (s : State) : modTile f s = .ok ((), s.withTile (f (s.tile s.cur))) := rfl
theorem modState_eq (f : State → State) (s : State) : modState f s = .ok ((), f s) := rfl
theorem wrW_eq (k : WReg) (v : Word) (s : State) : wrW k v s = .ok ((), s.withTile ((s.tile s.cur).setW k v)) := rfl
theorem wrV_eq (k : VReg) (v : VWord) (s : State) : wrV k v s = .ok ((), s.withTile ((s.tile s.cur).setV k v)) := rfl
theorem wrF_eq (k : FReg) (v : FWord) (s : State) : wrF k v s = .ok ((), s.withTile ((s.tile s.cur).setF k v)) := rfl
theorem stickM_eq (f : Fl) (s : State) : stickM f s = .ok ((), s.withTile ((s.tile s.cur).stick f)) := rfl
theorem getM_eq (s : State) : (get : M State) s = .ok (s, s) := rfl
theorem setM_eq (s' s : State) : (set s' : M Unit) s = .ok ((), s') := rfl
theorem pureM_eq {α : Type} (a : α) (s : State) : (pure a : M α) s = .ok (a, s) := rfl

theorem bindM_ok {α β : Type} {m : M α} {f : α → M β} {s s' : State} {a : α} (h : m s = .ok (a, s')) :
    (m >>= f) s = f a s' := by
  simp [bind, StateT.bind, Except.bind, h]
theorem bindM_error {α β : Type} {m : M α} {f : α → M β} {s : State} {e : Exn} (h : m s = .error e) :
    (m >>= f) s = .error e := by
  simp [bind, StateT.bind, Except.bind, h]

@[simp] theorem State.cur_withTile (s : State) (t : Tile) : (s.withTile t).cur = s.cur := rfl
@[simp] theorem State.tile_withTile (s : State) (t : Tile) : (s.withTile t).tile s.cur = t := by simp [State.withTile]
@[simp] theorem State.withTile_withTile (s : State) (t u : Tile) : (s.withTile t).withTile u = s.withTile u := by
  simp [State.withTile]

/-- An instruction governed as a whole whose predicate is off retires alone (R95). -/
theorem perform_whole_off {s : State} {r : Run} (h : s.Ready r) {p : Pred} (hp : (s.tile s.cur).enabled p = false) (body : M Flow) :
    perform (whole p body) s = .next (s.finish r s) := by
  have : whole p body s = .ok (.next, s) := by
    rw [whole, bindM_ok (rdPred_ready h p)]
    simp only [Tile.enabled] at hp
    simp only [hp]; rfl
  simp [perform, h.run, this, holdWrites_ready h, settle, State.finish, State.finishAt, State.latched]

/-- An instruction governed as a whole whose predicate is on is its body. -/
theorem whole_on {s : State} {r : Run} (h : s.Ready r) {p : Pred} (hp : (s.tile s.cur).enabled p = true) (body : M Flow) :
    whole p body s = body s := by
  rw [whole, bindM_ok (rdPred_ready h p)]
  simp only [Tile.enabled] at hp
  simp only [hp]; rfl

/-- A body that ends at the next slot: the instruction retires. -/
theorem perform_next {s s' : State} {r : Run} (h : s.Ready r) {body : M Flow} (hb : body s = .ok (.next, s')) :
    perform body s = .next (s.finish r s') := by
  simp [perform, h.run, hb, holdWrites_ready h, settle, State.finish, State.finishAt, State.latched]

theorem perform_goto {s s' : State} {r : Run} (h : s.Ready r) {body : M Flow} {pc : Word} (hb : body s = .ok (.goto pc, s')) :
    perform body s = .next (s.finishAt pc s') := by
  simp [perform, h.run, hb, holdWrites_ready h, settle, State.finishAt, State.latched]

theorem perform_left {s s' : State} {r : Run} (h : s.Ready r) {body : M Flow} (hb : body s = .ok (.left, s')) :
    perform body s = .next s' := by
  simp [perform, h.run, hb, holdWrites_ready h, settle]

theorem perform_error {s : State} {r : Run} (h : s.Ready r) {body : M Flow} {e : Exn} (hb : body s = .error e) :
    perform body s = .next (settle s r s.latched (.error e)) := by
  simp [perform, h.run, hb, holdWrites_ready h, State.latched]

/-- An instruction governed as a whole whose body changes the tile alone. -/
theorem perform_whole_tile {s : State} {r : Run} (h : s.Ready r) {p : Pred} {body : M Flow} {t : Tile}
    (hb : body s = .ok (.next, s.withTile t)) : perform (whole p body) s = .next (s.finishIf r p t) := by
  unfold State.finishIf
  cases hp : (s.tile s.cur).enabled p
  · simpa [hp] using perform_whole_off h hp body
  · rw [perform_next h (s' := s.withTile t) (by rw [whole_on h hp, hb])]; simp

end Sys2Proof.Machine
end

