-- ==== Sys2Proof/Laws/Scalar.lean ====
section
/-! SUPPORT. Scalar.lean: what the shared scalar operations do for a task whose registers are free. -/
namespace Sys2Proof.Machine

theorem intOp_ready {s : State} {r : Run} (h : s.Ready r) (ty : Ty) (sat : Bool) (d a : WReg) (b : OpB) (f : Int → Int → Int) :
    intOp ty sat d a b f s = .ok (.next, s.withTile ((s.tile s.cur).putResult ty sat d
      (f (intVal ty ((s.tile s.cur).w a)) (intVal ty ((s.tile s.cur).opB b))))) := by
  rw [intOp, bindM_ok (rdW_ready h a), bindM_ok (rdB_ready h b)]
  rw [bindM_ok (stickM_eq _ s), bindM_ok (wrW_eq _ _ _)]
  simp [pureM_eq, Tile.putResult]

theorem intUnOp_ready {s : State} {r : Run} (h : s.Ready r) (ty : Ty) (sat : Bool) (d a : WReg) (f : Int → Int) :
    intUnOp ty sat d a f s = .ok (.next, s.withTile ((s.tile s.cur).putResult ty sat d (f (intVal ty ((s.tile s.cur).w a))))) := by
  rw [intUnOp, bindM_ok (rdW_ready h a)]
  rw [bindM_ok (stickM_eq _ s), bindM_ok (wrW_eq _ _ _)]
  simp [pureM_eq, Tile.putResult]

theorem intDivOp_zero {s : State} {r : Run} (h : s.Ready r) (ty : Ty) (sat : Bool) (d a : WReg) (b : OpB) (z : Int → Int)
    (f : Int → Int → Int) (hb : intVal ty ((s.tile s.cur).opB b) = 0) :
    intDivOp ty sat d a b z f s = .ok (.next, s.withTile (((s.tile s.cur).stick fDZ).setW d
      (putInt ty (z (intVal ty ((s.tile s.cur).w a)))))) := by
  rw [intDivOp, bindM_ok (rdW_ready h a), bindM_ok (rdB_ready h b)]
  simp only [hb, if_true]
  rw [bindM_ok (stickM_eq _ s), bindM_ok (wrW_eq _ _ _)]
  simp [pureM_eq]

theorem intDivOp_ready {s : State} {r : Run} (h : s.Ready r) (ty : Ty) (sat : Bool) (d a : WReg) (b : OpB) (z : Int → Int)
    (f : Int → Int → Int) (hb : intVal ty ((s.tile s.cur).opB b) ≠ 0) :
    intDivOp ty sat d a b z f s = .ok (.next, s.withTile ((s.tile s.cur).putResult ty sat d
      (f (intVal ty ((s.tile s.cur).w a)) (intVal ty ((s.tile s.cur).opB b))))) := by
  rw [intDivOp, bindM_ok (rdW_ready h a), bindM_ok (rdB_ready h b)]
  simp only [if_neg hb]
  rw [bindM_ok (stickM_eq _ s), bindM_ok (wrW_eq _ _ _)]
  simp [pureM_eq, Tile.putResult]

theorem bitOp_ready {s : State} {r : Run} (h : s.Ready r) (d a : WReg) (b : OpB) (f : Word → Word → Word) :
    bitOp d a b f s = .ok (.next, s.withTile ((s.tile s.cur).setW d (f ((s.tile s.cur).w a) ((s.tile s.cur).opB b)))) := by
  rw [bitOp, bindM_ok (rdW_ready h a), bindM_ok (rdB_ready h b), bindM_ok (wrW_eq _ _ _)]
  rfl

theorem bitUnOp_ready {s : State} {r : Run} (h : s.Ready r) (d a : WReg) (f : Word → Word) :
    bitUnOp d a f s = .ok (.next, s.withTile ((s.tile s.cur).setW d (f ((s.tile s.cur).w a)))) := by
  rw [bitUnOp, bindM_ok (rdW_ready h a), bindM_ok (wrW_eq _ _ _)]
  rfl

end Sys2Proof.Machine
end

