-- ==== Sys2Proof/Tests/Slice0.lean ====
section
/-! SUPPORT. Slice0.lean: the model's own tests. Words of the encoding tables decode to what they stand for, ill-formed terms are
refused, results the manual works out are met, and each obligation's hypotheses are met by a concrete state. -/
namespace Sys2Proof.Machine.Tests

set_option Elab.async false

/-! A small machine: job 1, whose gang 0 has one task, running on tile 0 (log 24). -/

def W : State := State.reset.withFetchWord 96 0x010000000000000000000000
def R : Run := { rcd := { cp := 0x10000, fp := 0x400000, lin := 0, gang := 0, flags := mkFlags 1 0 1 false false }, job := 1, pc := 0x10000 }
def on : Pred := ⟨false, 0⟩
def off : Pred := ⟨true, 0⟩

/-- The machine with another tile 0. -/
def onTile (f : Tile → Tile) : State := W.setTile 0 (f (W.tile 0))
/-- With another run. -/
def onRun (f : Run → Run) : State := onTile (fun t => { t with run := some (f R) })
/-- With w10 set. -/
def w10 (v : Nat) : State := onTile (fun t => t.setW 10 (word v))

def isReady (s : State) (r : Run) : Bool := decide ((s.tile s.cur).run = some r) && s.regsFree r
theorem ready_of {s : State} {r : Run} (h : isReady s r = true) : s.Ready r := by
  simp only [isReady, Bool.and_eq_true, decide_eq_true_eq] at h
  exact ⟨h.1, h.2⟩

def okB {α : Type} (x : Except Exn (α × State)) : Bool := match x with
  | .ok _ => true
  | .error _ => false
theorem ok_of {α : Type} {x : Except Exn (α × State)} (h : okB x = true) : ∃ a s, x = .ok (a, s) := by
  cases x with
  | ok y => exact ⟨y.1, y.2, rfl⟩
  | error e => simp [okB] at h

def okP {α : Type} (x : Except Exn (α × State)) (p : α → State → Bool) : Bool := match x with
  | .ok (a, s) => p a s
  | .error _ => false
theorem W_ready : W.Ready R := ready_of (by decide +kernel)
theorem W_on : (W.tile W.cur).enabled on = true := by decide +kernel
theorem W_off : (W.tile W.cur).predWord off = 0 := by decide +kernel

def J : Job := (W.job? 1).getD { polder := 0, jcbpa := 0, s2root := 0 }
def G : Gang := (J.gang? 0).getD { desc := plainDesc, foot := [], code := [], consts := [], stream := 0, ticket := 0, ctag := 0, stat := 0 }
def onJob (f : Job → Job) : State := W.setJob 1 (f J)
def onGang (f : Gang → Gang) : State := onJob (fun j => j.setGang 0 (f G))
/-- A translation of a page of job 1 to the physical page of the same number, all rights. -/
def xl (page : Nat) (nl1 : Bool) : Xlat := ⟨1, page, page, page, true, true, true, true, nl1, 0, 0, []⟩
/-- The machine with translations of pages 1, 2 and 0x40 held by tile 0 and a constant region in page 2. -/
def V (nl1 : Bool) (f : Tile → Tile) : State :=
  (onGang (fun g => { g with consts := [⟨0x20000, 0x1000⟩] })).setTile 0 (f { W.tile 0 with tlb := [xl 1 false, xl 2 false, xl 0x40 nl1] })
def trapOf {α : Type} (x : Except Exn (α × State)) : Option (Nat × Word × Bool) := match x with
  | .error ⟨.trap c v, k, _⟩ => some (c, v, k.isSome)
  | _ => none
theorem W_job : W.job? 1 = some J := by decide +kernel
theorem W_gang : W.runGang R = some G := by decide +kernel

/-! Hypotheses met: scalar instructions and control. -/

theorem wit_IntegerArithmetic : W.Ready R := W_ready
theorem wit_IntegerDivision : W.Ready R ∧ intVal .s8 ((W.tile 0).opB (.imm 0x100)) = 0 ∧ intVal .s8 ((W.tile 0).opB (.imm 0xFF)) = -1 :=
  ⟨W_ready, by decide +kernel⟩
theorem wit_IntegerResultValue : Ty.isInt .s8 = true ∧ (-129 : Int) < -(2 ^ (Ty.bits .s8 - 1)) ∧ (2 : Int) ^ (Ty.bits .s8 - 1) - 1 < 128 := by decide
theorem wit_LogicShiftCount : W.Ready R ∧ (W.tile 0).w 10 = 0 ∧ ((w10 (2 ^ 63)).tile 0).w 10 ≠ 0 := ⟨W_ready, by decide +kernel⟩
/-- clz with IB, B beside an immediate of iand, popc with a TY: such a slot is fetched. -/
theorem wit_LogicShiftCount_edges : [(0x11 * 2 ^ 88 + 8 * 2 ^ 80 + 2 ^ 40 : Nat), 0x11 * 2 ^ 88 + 2 ^ 58 + 2 ^ 40, 0x11 * 2 ^ 88 + 10 * 2 ^ 80 + 2 ^ 48].all (fun w =>
      let s := W.withFetchWord 96 w
      decide ((s.tile 0).run = some R) && (s.carried 0 R).isNone && (match s.fetchCheck 0 R R.pc R.entry with
        | .ok (_, v, _) => v == BitVec.ofNat 96 w && (v.extractLsb' 88 8 == 0x11) && (decode v).isNone
        | .error _ => false)) = true
    ∧ R.pend = none ∧ R.firm ≠ some .restore := by decide +kernel
theorem wit_SelectFieldAddress : W.Ready R ∧ (1 ≤ (64 : BitVec 7).toNat ∧ (0 : BitVec 6).toNat + (64 : BitVec 7).toNat ≤ 64) ∧
    (1 ≤ (1 : BitVec 7).toNat ∧ (63 : BitVec 6).toNat + (1 : BitVec 7).toNat ≤ 64) := ⟨W_ready, by decide⟩
theorem wit_Transfers : W.Ready R ∧ (W.tile W.cur).enabled on = true ∧ okB (checkTarget 0x10000 W) = true ∧ (W.tile 0).w 10 - 1 ≠ 0
    ∧ (0x10000 : Word) ≠ nextPc R.pc ∧ ((w10 1).tile 0).w 10 - 1 = 0 ∧ (word (0x10000 + 12) = nextPc R.pc) ∧ ((w10 0x10000).tile 0).w 10 = 0x10000
    ∧ trapOf (checkTarget 0x10018 W) = some (0x03, 0x10018, true) := ⟨W_ready, by decide +kernel⟩
theorem wit_Transfers_ret_fails : (w10 0x10018).Ready R ∧ ((w10 0x10018).tile 0).w 10 = 0x10018 ∧ trapOf (checkTarget 0x10018 (w10 0x10018)) = some (0x03, 0x10018, true) :=
  ⟨ready_of (by decide +kernel), by decide +kernel⟩
theorem wit_Transfers_ret : (w10 0x10000).Ready R ∧ okB (checkTarget 0x10000 (w10 0x10000)) = true := ⟨ready_of (by decide +kernel), by decide +kernel⟩
theorem wit_TargetChecks : (W.tile W.cur).run = some R ∧ (0x10001 % 64 = 1) ∧ (2 ^ 60 + 48) % 64 = 48
    ∧ (W.codeOf R).all (fun c => !(decide (c.base ≤ 0x10040) && decide (0x10080 ≤ c.base + c.len))) = true
    ∧ W.codeOk R 0x10000 = true ∧ (match W.fetchLine W.cur R 0x10030 with | .ok _ => true | .error _ => false) = true := by decide +kernel
def trapped (vec cause : Nat) : State := onTile (fun t => (t.setCtl cTRAPVEC (word vec)).setCtl cTCAUSE (word cause))
theorem wit_TrapEntry : ((onRun (fun r => { r with sup := true })).tile 0).run = some { R with sup := true } ∧ (W.tile 0).run = some R
    ∧ (((trapped 0 (2 ^ 63)).tile 0).ctl cTCAUSE).getLsbD 63 = true ∧ (((trapped 0 0).tile 0).ctl cTCAUSE).getLsbD 63 = false
    ∧ ((trapped 0 0).tile 0).ctl cTRAPVEC = 0 ∧ ((trapped 0x10000 0).tile 0).ctl cTRAPVEC ≠ 0
    ∧ (let s := trapped 0x10000 0
       let r1 := { R with pc := 0x10000, entry := true }
       match (s.withTile { ((((s.tile 0).setCtl cTCAUSE (word (2 ^ 63 + 1))).setCtl cTVAL 0).setCtl cTPC R.pc) with run := some r1 }).fetchCheck 0 r1 0x10000 true with
       | .ok _ => true
       | .error _ => false) = true := by decide +kernel
/-- What the fetch at a TRAPVEC that fails comes to: 0 a trap, 1 a translation fault, 2 poison. -/
def entryFails (s : State) (vec : Word) : Option Nat :=
  let r1 := { R with pc := vec, entry := true, vec := true }
  match (s.withTile { ((((s.tile 0).setCtl cTCAUSE (word (2 ^ 63 + 1))).setCtl cTVAL 0).setCtl cTPC R.pc) with run := some r1 }).fetchCheck 0 r1 vec true with
  | .error (.trap _ _) => some 0
  | .error (.xlate _) => some 1
  | .error (.poison _) => some 2
  | .ok _ => none
theorem wit_TrapEntry_fails : entryFails (trapped 0x20000 0) 0x20000 = some 0
    ∧ (let s := trapped 0x30000 0
      entryFails (s.setJob 1 (J.setGang 0 { G with code := [⟨0x10000, 64⟩, ⟨0x30000, 64⟩] })) 0x30000 = some 1)
    ∧ entryFails { trapped 0x10000 0 with poison := [0x10000 / 8] } 0x10000 = some 2
    ∧ (W.tile 0).spBad ((W.tile 0).base + 0x1488) 16 = false
    ∧ ({ W.tile 0 with spPoison := [((W.tile 0).base + 0x1488) / 8] } : Tile).spBad ((W.tile 0).base + 0x1488) 16 = true := by decide +kernel
def S : State := onRun (fun r => { r with sup := true })
def RS : Run := { R with sup := true }
theorem S_ready : S.Ready RS := ready_of (by decide +kernel)
theorem wit_TrapsReturnsPrivilege : W.Ready R ∧ R.sup = false ∧ S.Ready RS ∧ RS.sup = true ∧ (S.tile S.cur).enabled on = true :=
  ⟨W_ready, rfl, S_ready, rfl, by decide +kernel⟩
theorem wit_ControlRegisters : W.Ready R ∧ (W.tile 0).enabled on = true ∧ (6 : BitVec 12).toNat = 6 ∧ (0xFFF : BitVec 12).toNat = 0xFFF ∧ S.Ready RS ∧ RS.sup = true :=
  ⟨W_ready, W_on, rfl, rfl, S_ready, rfl⟩
theorem wit_WorkspaceAndLatch : S.Ready RS ∧ (S.tile S.cur).enabled on = true ∧ (((S.tile 0).w 10).toNat % 256 = 0 ∧ ((S.tile 0).w 10).toNat + 0x1800 ≤ S.spSize 0)
    ∧ W.Ready R ∧ (1 : BitVec 9) ≠ 0 := ⟨S_ready, by decide +kernel, by decide +kernel, W_ready, by decide⟩
theorem wit_WorkspaceAndLatch_bad : (S.setTile 0 ((S.tile 0).setW 10 1)).Ready RS ∧ ((S.setTile 0 ((S.tile 0).setW 10 1)).tile 0).w 10 = 1 :=
  ⟨ready_of (by decide +kernel), by decide +kernel⟩
theorem wit_IdentityTimeTerritory : W.Ready R ∧ W.job? R.job = some J ∧ ((w10 576).tile 0).w 10 = 576 ∧ (W.tile 0).w 10 = 0 ∧ (W.tile 0).owner = .job R.job
    ∧ ((W.setTile 575 { owner := .dead }).tile 575).owner = .dead := ⟨W_ready, W_job, by decide +kernel⟩
/-- Tiles of no job, in transit, of another job, and across the dike of a polder of half the package. -/
theorem wit_IdentityTimeTerritory_others : [Owner.unowned, .transit 1, .job 2].all (fun o =>
      let s := (w10 575).setTile 575 { owner := o }
      isReady s R && decide (((s.tile 0).w 10).toNat = 575) && decide ((s.tile 575).owner = o) && decide ((s.polderOfTile 575).map (·.1) = some J.polder)) = true
    ∧ (let s := { w10 575 with polders := [(0, { qx0 := 0, qx1 := 1, qy0 := 0, qy1 := 3 })] }
      isReady s R = true ∧ (s.tile 575).owner ≠ .job 1 ∧ (s.polderOfTile 575).map (·.1) ≠ some J.polder) := by decide +kernel

/-! Memory. -/

def win : Nat := 0x0FFFFFFFFE000000
theorem wit_ScalarAccess_misaligned : (w10 1).Ready R ∧ ((w10 1).tile 0).w 10 + ((w10 1).tile 0).opB (.imm 0) = 1 := ⟨ready_of (by decide +kernel), by decide +kernel⟩
theorem wit_ScalarAccess : (w10 win).Ready R ∧ (win + 8) % 8 = 0
    ∧ okB ((do let ls ← checkLanes .load [(win + 8, 8)]; acquirePart (.acq .gang); loadLanes ls : M _) (w10 win)) = true
    ∧ okB ((do let ls ← checkLanes .load [(win + 8, 8)]; ls.mapM loadLane : M _) (w10 win)) = true
    ∧ okB ((do let ls ← checkLanes .konst [(0x20000, 8)]; ls.mapM constLane : M _) (V false id)) = true
    ∧ okB ((do let ls ← checkLanes .store [(win + 8, 8)]; releasePart (.rel .gang); ls.forM (fun l => storeLane l (leBytes 8 5)) : M _) (w10 win)) = true :=
  ⟨ready_of (by decide +kernel), by decide, by decide +kernel, by decide +kernel, by decide +kernel, by decide +kernel⟩
theorem wit_ScalarAccess_const : (V false id).Ready R ∧ ((V false id).tile 0).enabled on = true := ⟨ready_of (by decide +kernel), by decide +kernel⟩
theorem wit_WindowAccess : (w10 win).Ready R ∧ (w10 win).barges = [] ∧ ((w10 win).tile 0).enabled on = true
    ∧ (((w10 win).tile 0).w 10 + ((w10 win).tile 0).opB (.imm 0)).toNat = 0x0FFFFFFFFE000000 + 0 ∧ 0 + 8 ≤ (w10 win).spSize 0
    ∧ ((w10 win).tile 0).spBad 0 8 = false ∧ 0 + 8 ≤ ((w10 win).tile 0).base + 0x1480 := ⟨ready_of (by decide +kernel), by decide +kernel⟩
theorem wit_WindowAccess_control : let s := w10 (win + (W.tile 0).base + 0x1510)
    s.Ready R ∧ ((s.tile 0).w 10 + (s.tile 0).opB (.imm 0)).toNat = 0x0FFFFFFFFE000000 + ((s.tile 0).base + 0x1510) ∧ (s.tile 0).base + 0x1510 + 8 ≤ s.spSize 0
    ∧ ((s.tile 0).base + 0x1510) % 8 = 0 ∧ (s.tile 0).spBad ((s.tile 0).base + 0x1510) 8 = false
    ∧ ¬ ((s.tile 0).base + 0x1510 + 8 ≤ (s.tile 0).base + 0x1480 ∨ (s.tile 0).base + 0x1800 ≤ (s.tile 0).base + 0x1510) :=
  ⟨ready_of (by decide +kernel), by decide +kernel⟩
/-- Supervisor code stores to the control block; a store to the bytes of f0. -/
theorem wit_WindowAccess_more : (let s := S.setTile 0 ((S.tile 0).setW 10 (word (win + (W.tile 0).base + 0x1510)))
      isReady s RS = true ∧ RS.sup = true ∧ s.barges = [] ∧ ((s.tile 0).w 10 + (s.tile 0).opB (.imm 0)).toNat = 0x0FFFFFFFFE000000 + ((s.tile 0).base + 0x1510))
    ∧ (let s := w10 (win + (W.tile 0).base + 0x1200)
      isReady s R = true ∧ ((s.tile 0).w 10 + (s.tile 0).opB (.imm 0)).toNat = 0x0FFFFFFFFE000000 + ((s.tile 0).base + 0x1200)
      ∧ ((s.tile 0).base + 0x1200) % 8 = 0 ∧ (s.tile 0).base + 0x1200 + 8 ≤ s.spSize 0) := by decide +kernel
/-- Apart from what is kept of a workspace; over its control registers; over f0 of a root that waits on the tile. -/
def rootedAt (b : Nat) : State := onTile (fun t => { (t.setW 10 (word (win + b + 0x1200))) with root := some { rcd := R.rcd, job := 1, base := b } })
theorem wit_WindowAccess_kept : ((w10 win).tile 0).keptApart 0 8 ∧ ((w10 win).tile 0).root = none
    ∧ (let s := S.setTile 0 ((S.tile 0).setW 10 (word (win + (W.tile 0).base + 0x1490)))
      isReady s RS = true ∧ (s.tile 0).root = none ∧ ((s.tile 0).w 10).toNat = win + ((s.tile 0).base + 0x1490) ∧ ((s.tile 0).base + 0x1490) % 8 = 0)
    ∧ (let s := rootedAt 0
      isReady s R = true ∧ ((s.tile 0).w 10).toNat = win + 0x1200 ∧ 0x1200 % 8 = 0 ∧ 0x1200 + 8 ≤ (s.tile 0).base + 0x1480 ∧ 0x1200 + 8 ≤ s.spSize 0) := by
  refine ⟨?_, ?_, ?_, ?_⟩
  · intro b hb; revert b; decide +kernel
  all_goals decide +kernel
theorem wit_PlaceRights : (let size := W.spSize 0
    let t := W.tile 0
    size ≤ 0x17FFFF ∧ t.base + 0x1480 < size ∧ t.base + 0x17FF < size ∧ 0 < t.base)
    ∧ (∃ f ∈ [Foot.mk 0x400000 0x1800 .priv], f.base ≤ 0x4017FF ∧ 0x4017FF < f.base + f.len ∧ f.kind = .priv)
    ∧ (∃ c ∈ [Region.mk 0x20000 0x1000], c.base ≤ 0x20FFF ∧ 0x20FFF < c.base + c.len) ∧ ¬ (∃ c ∈ [Region.mk 0x20000 0x1000], c.base ≤ 0x21000 ∧ 0x21000 < c.base + c.len) :=
  ⟨by decide +kernel, by decide, by decide, by decide⟩

/-- A lane in the PRIV page of the gang, held as the word of an L1 line. -/
def lanePriv (nl1 : Bool) : Lane := ⟨0x400008, 8, .foot .priv, some (xl 0x40 nl1)⟩
def line40 : L1Line := ⟨0x400000 / 32, 0x1234, 0, 0, 0⟩
def stagesOf (s : State) (g : Gang) (x : Xlat) (va n : Nat) (bs : List Byte) : Bool :=
  match s.job? 1 with
  | none => false
  | some j => match s.stage j g R.rcd.key (.store (s.stageKey 1 x va / 32 * 32) (maskOf (va % 32) n) (lineWith 0 (va % 32) bs)) (va / 32 * 32)
      (s.stagePlace 1 x va).1 (s.stagePlace 1 x va).2 (s.siteOf s.cur) [x] with
    | .ok _ => true
    | _ => false
theorem wit_AccessPlaces : (W.tile W.cur).run = some R ∧ W.barges = [] ∧ W.pend = [] ∧ W.tiles.all (fun e => e.2.slots.isEmpty) = true
    ∧ (W.tile 0).spBad 0 8 = false ∧ 0 + 8 ≤ (W.tile 0).base + 0x1518 ∧ R.sup = false ∧ (W.tile 0).spBad ((W.tile 0).base + 0x1518) 8 = false
    ∧ W.memBad (J.jcbpa + 0x200) 8 = false ∧ (lanePriv true).key 0 = 0x400008 ∧ 0x400008 < 2 ^ 52 ∧ (xl 0x40 true).nl1 = true ∧ (xl 0x40 false).nl1 = false
    ∧ findLine ((lanePriv false).key 0 / 32) ((V false (fun t => { t with l1 := [line40] })).tile 0).l1 = some line40 ∧ line40.poison = 0
    ∧ 0x400008 % 32 + 8 ≤ 32 ∧ ((V false (fun t => { t with l1 := [line40] })).tile 0).run = some R
    ∧ stagesOf W G (xl 0x40 false) 0x400008 8 (leBytes 8 7) = true := by decide +kernel

/-- A line that L1 does not hold; a gang with two of its stores staged over a word of an INOUT place. -/
def laneInout : Lane := ⟨0x400008, 8, .foot .inout, some (xl 0x40 false)⟩
def stagedOver : List Entry := [1, 2].map (fun k => ⟨R.rcd.key, k, .store 0x400000 (maskOf 8 8) (lineWith 0 8 (leBytes 8 k)), 0, 0, 0, false, 0, none, 0, []⟩)
theorem wit_AccessPlaces_reads : (let s := V false id
      (s.tile 0).run = some R ∧ s.barges = [] ∧ findLine ((lanePriv false).key 0 / 32) (s.tile 0).l1 = none ∧ s.pend = [] ∧ s.tiles.all (fun e => e.2.slots.isEmpty) = true
      ∧ s.memBad 0x400000 32 = false ∧ (s.waysOf 0 (0x400000 / 32)).length < 8 ∧ (s.tile 0).l1.all (fun y => decide (y.dirty = 0)) = true)
    ∧ (let s := onGang (fun g => { g with entries := stagedOver })
      (s.tile 0).run = some R ∧ s.barges = [] ∧ s.pend = [] ∧ (s.runGang R).any (fun g => g.entries == stagedOver && !(s.view g (s.stageKey 1 (xl 0x40 false) 0x400008) 8
        ((xl 0x40 false).key 0 0x400008)).2.2) = true ∧ s.stageKey 1 (xl 0x40 false) 0x400008 = (xl 0x40 false).key (s.siteOf s.cur) 0x400008
      ∧ keySite (s.stageKey 1 (xl 0x40 false) 0x400008) = none ∧ s.memBad 0x400008 8 = false
      ∧ (stagedOver.all (fun e => e.hits 0x400008 8) && (match stagedOver with
        | [a, b] => Entry.lt a b
        | _ => false)) = true) := by decide +kernel

/-! Vectors of memory and streams. -/

theorem wit_VectorAccess : (w10 win).Ready R ∧ ((w10 win).tile 0).predWord on ≠ 0 ∧ okB (streamsBefore [] (some 3) (w10 win)) = true
    ∧ okB (streamsBefore [4] none (w10 win)) = true ∧ okB (streamsBefore [5, 4] none (w10 win)) = true ∧ win % 8 = 0
    ∧ okB ((do acquirePart .plain; let ls ← checkLanes .load ((List.range 16).map (fun j => (win + 8 * j, 8))); loadLanes ls : M _) (w10 win)) = true
    ∧ okB ((do releasePart (.rel .die); let ls ← checkLanes .store ((List.range 16).map (fun j => (win + 8 * j, 8))); ls.forM (fun l => storeLane l (leBytes 8 3)) : M _)
        (w10 win)) = true :=
  ⟨ready_of (by decide +kernel), by decide +kernel, by decide +kernel, by decide +kernel, by decide +kernel, by decide, by decide +kernel, by decide +kernel⟩
def sbindState (base stride count : Nat) : State := onTile (fun t => ((t.setW 10 (word base)).setW 11 (word stride)).setW 12 (word count))
theorem wit_Streams_bind : (sbindState 0x400000 128 1).Ready R ∧ ((sbindState 0x400000 128 1).tile 0).w 10 = 0x400000 ∧ ((sbindState 0x400000 128 1).tile 0).w 12 ≠ 0
    ∧ (sbindState 64 0 1).Ready R ∧ ((sbindState 64 0 1).tile 0).w 10 = 64 ∧ (sbindState 0 64 1).Ready R ∧ ((sbindState 0 64 1).tile 0).w 11 = 64
    ∧ (sbindState (2 ^ 60) 0 1).Ready R ∧ ((sbindState (2 ^ 60) 0 1).tile 0).w 10 = 2 ^ 60 ∧ (sbindState 0 0 0).Ready R ∧ ((sbindState 0 0 0).tile 0).w 12 = 0 :=
  ⟨ready_of (by decide +kernel), by decide +kernel, by decide +kernel, ready_of (by decide +kernel), by decide +kernel, ready_of (by decide +kernel), by decide +kernel,
    ready_of (by decide +kernel), by decide +kernel, ready_of (by decide +kernel), by decide +kernel⟩
def bound (dir : Bool) : State := onTile (fun t => (t.setCtl (cSBCFG 0) (word (2 ^ 60 + win + if dir then 2 ^ 61 else 0))).setCtl (cSGCNT 0) 1)
theorem wit_Streams : ((bound false).tile 0).run = some R ∧ (((bound false).tile 0).ctl 0x14A8).getLsbD 60 = true
    ∧ (((bound false).tile 0).ctl 0x14A8).getLsbD 61 = false ∧ (((bound true).tile 0).ctl 0x14A8).getLsbD 61 = true ∧ ((W.tile 0).ctl 0x14A8).getLsbD 60 = false
    ∧ okB ((do let ls ← checkLanes .load [(win, 32), (win + 32, 32), (win + 64, 32), (win + 96, 32)]; loadLanes ls : M _) (bound false)) = true := by decide +kernel
theorem wit_Streams_append : (bound true).Ready R ∧ (((bound true).tile 0).ctl 0x14A8).getLsbD 60 = true
    ∧ okP ((do let ls ← checkLanes .store [(win, 32), (win + 32, 32), (win + 64, 32), (win + 96, 32)]
               (ls.zipIdx).forM (fun e => storeLane e.1 (leBytes 32 ((((bound true).tile 0).v 28).toNat / 2 ^ (256 * e.2)))) : M _) (bound true))
      (fun _ s => decide (s.cur = (bound true).cur)) = true := ⟨ready_of (by decide +kernel), by decide +kernel, by decide +kernel⟩
theorem wit_Maintenance : (V false (fun t => t.setW 10 0x400000)).Ready R ∧ rangeFault [.load, .store] ((V false id).footOf R) ((V false id).constsOf R) 0x400000 64 = none
    ∧ (xlateLanes 0 1 .load (V false id) ((walkedPieces ((V false id).footOf R) ((V false id).constsOf R) 0x400000 64).map
        (fun q => (⟨q.1, q.2, .const, none⟩ : Lane)))).2.2.2 = none ∧ Scope.gang ≠ .tile ∧ (V false id).tiles.all (fun e => e.2.slots.isEmpty) = true :=
  ⟨ready_of (by decide +kernel), by decide +kernel, by decide +kernel, by decide, by decide +kernel⟩

/-! Atomics, reductions, barriers, tickets. -/

theorem wit_AtomicsAndReductions : (w10 win).Ready R ∧ (w10 win).runGang R = some G ∧ G.desc.dsm = false ∧ G.tasks.all (fun x => x.got.isNone) = true
    ∧ okB ((do let ls ← checkLanes .update [(win, 8)]; releasePart (.rel .gang); ls.mapM (fun l => atomicLane l .add .s64 1 0 false) : M _) (w10 win)) = true
    ∧ okB ((do let ls ← checkLanes .update [(win, 4)]; ls.mapM (fun l => redLane l .add .f32 .rne 0) : M _) (w10 win)) = true
    ∧ okP ((do let ls ← checkLanes .returning [(win, 8)]; releasePart .plain; ls.mapM (fun l => atomicLane l .cas .s64 1 0 true) : M _) (w10 win))
        (fun _ s3 => decide ((s3.tile s3.cur).run = some R) && (s3.runGang R).all (fun g => g.meas.isNone) && okB (acquirePart (.acq .gang) s3)) = true
    ∧ G.meas = none :=
  ⟨ready_of (by decide +kernel), by decide +kernel, by decide +kernel, by decide +kernel, by decide +kernel, by decide +kernel, by decide +kernel, by decide +kernel⟩
theorem wit_AtomicsAndReductions_vector : (w10 win).Ready R ∧ ((w10 win).tile 0).predWord on ≠ 0 ∧ (W.tile 0).predWord off = 0 ∧ okB (streamsBefore [4] none (w10 win)) = true
    ∧ win % 128 = 0 ∧ isReady (w10 (win + 8)) R = true ∧ (((w10 (win + 8)).tile 0).w 10).toNat % 128 ≠ 0
    ∧ okB ((do let ls ← checkLanes .update ((List.range 16).map (fun j => (win + 8 * j, 8))); ls.forM (fun l => redLane l .add .s64 .rne 3) : M _) (w10 win)) = true :=
  ⟨ready_of (by decide +kernel), by decide +kernel, by decide +kernel, by decide +kernel, by decide, by decide +kernel, by decide +kernel, by decide +kernel⟩
theorem wit_AtomicEffects : (W.tile 0).run = some R ∧ W.barges = [] ∧ W.pend = [] ∧ W.tiles.all (fun e => e.2.slots.isEmpty) = true ∧ (W.tile 0).spBad 0 8 = false
    ∧ (xl 0x40 true).nl1 = true ∧ findLine ((lanePriv true).key 0 / 32) (W.tile 0).l1 = none ∧ W.memBad ((lanePriv true).key 0) 8 = false ∧ W.runGang R = some G
    ∧ Ty.isInt .s8 = true ∧ 255 < 2 ^ Ty.bits .s8 := by decide +kernel
def contrib (lin ord v : Nat) : Contrib := ⟨1, 0, ⟨BitVec.ofNat 128 lin, 1⟩, ord, 0x400000, .add, .f32, .rne, v⟩
theorem wit_ReductionOrderFree : [contrib 1 0 5, contrib 2 0 6].Perm [contrib 2 0 6, contrib 1 0 5] ∧ W.tiles.all (fun e => e.2.slots.isEmpty) = true
    ∧ [contrib 1 0 5, contrib 2 0 6].Pairwise (fun x y => (x.key, x.ord) ≠ (y.key, y.ord)) := ⟨by decide, by decide +kernel, by decide⟩
/-- The gang CONCURRENT with barrier 0, its root's barrier as given, generations completed as given. -/
def bar (arr byStep : Bool) (gen : BitVec 32) : State :=
  onGang (fun g => { g with desc := { g.desc with cls := 2, bars := 1 }, bars := [⟨0, 0, 0, arr, byStep⟩], gens := gen :: List.replicate 7 0, placed := [0] })
theorem wit_BarrierInstructions : W.Ready R ∧ ¬ (G.desc.cls = 2) ∧ (bar false false 0).Ready R ∧ (bar true false 0).Ready R ∧ (bar true true 1).Ready R
    ∧ ((bar true true 1).runGang R).any (fun g => g.desc.cls == 2 && R.rcd.depth == R.rcd.rootw && g.desc.bars.getLsbD 0 && !g.desc.dsm && (g.bar R.rcd.rootIndex 0).arr && g.gens.getD 0 0 != (g.bar R.rcd.rootIndex 0).gen) = true
    ∧ ((bar true false 0).runGang R).any (fun g => (g.bar R.rcd.rootIndex 0).arr && g.gens.getD 0 0 == (g.bar R.rcd.rootIndex 0).gen) = true
    ∧ (bar false false 0).requestOpen R = false ∧ (bar false false 0).commandOpen R = false :=
  ⟨W_ready, by decide +kernel, ready_of (by decide +kernel), ready_of (by decide +kernel), ready_of (by decide +kernel), by decide +kernel, by decide +kernel, by decide +kernel,
    by decide +kernel⟩
theorem wit_BarrierInstructions_none : let r := { R with rcd := { R.rcd with gang := 5 } }
    (onRun (fun _ => r)).Ready r ∧ (onRun (fun _ => r)).runGang r = none := ⟨ready_of (by decide +kernel), by decide +kernel⟩
theorem wit_GenerationCompletes : ((bar true true 0).gang? 1 0).any (fun g => g.live && !g.out && g.allArrived 0 && decide (0 < g.gens.length)
      && g.tasks.all (fun x => x.root.all (fun i => (g.bar i 0).byStep))) = true
    ∧ ((bar true false 0).gang? 1 0).any (fun g => g.live && !g.out && g.allArrived 0 && !(g.bar 0 0).byStep) = true
    ∧ ((bar false false 0).gang? 1 0).any (fun g => !g.allArrived 0) = true := by decide +kernel
/-- An accepted request of the task, its first unit at the second page of the scratchpad. -/
def B : Barge := { id := 0, job := 1, gang := 0, key := R.rcd.key, task := R.taskAddr, tile := 0, tag := 3, ord := 0, step := 0, ordered := false, mcast := false
                   len := 32, rowlen := 0, src := win, dst := win + 0x10000, sstr := 0, clen := 0, ostr := 0, chans := [⟨0, win + 0x10000, 32, win + 0x10000⟩], dreg := 20
                   accepted := true, promise := 100 }
def withBarge (b : Barge) : State := { W with barges := [b], nbarge := 1 }
theorem wit_CommitAndTickets : W.Ready R ∧ W.job? R.job = some J ∧ ((J.stream G.stream).opened = true ∧ (J.stream G.stream).head = G.ticket) ∧ W.requestOpen R = false
    ∧ G.journalsOn = false ∧ G.desc.digest ≠ 2 ∧ G.entries = [] ∧ (withBarge B).Ready R ∧ (withBarge B).requestOpen R = true
    ∧ (onGang (fun g => { g with ticket := 2 })).Ready R ∧ (onGang (fun g => { g with desc := { g.desc with cls := 2, snapb := 8 } })).Ready R
    ∧ ((onGang (fun g => { g with desc := { g.desc with cls := 2, snapb := 8 } })).runGang R).any Gang.journalsOn = true :=
  ⟨W_ready, W_job, by decide +kernel, by decide +kernel, by decide +kernel, by decide +kernel, by decide +kernel, ready_of (by decide +kernel), by decide +kernel,
    ready_of (by decide +kernel), ready_of (by decide +kernel), by decide +kernel⟩
def RH : Run := { R with rcd := { R.rcd with flags := mkFlags 1 0 1 false true, gang := 0xFFFFFFFF } }
theorem wit_handler : (onRun (fun _ => RH)).Ready RH ∧ RH.rcd.handler = true ∧ ((onRun (fun _ => RH)).tile 0).enabled on = true :=
  ⟨ready_of (by decide +kernel), by decide +kernel, by decide +kernel⟩

/-! Tasks. -/

/-- Room for children in the gang's frames and in the queues; w10 holds an entry, w11 a frame. -/
def forks (fp readyQN : Nat) : State :=
  (({ (onGang (fun g => { g with foot := [⟨0x400000, 0x6000, .priv⟩] })) with cur := 0 }).setJob 1
    { (J.setGang 0 { G with foot := [⟨0x400000, 0x6000, .priv⟩] }) with readyQN := readyQN }).setTile 0 (((W.tile 0).setW 10 0x10000).setW 11 (word fp))
theorem wit_TaskCreation : (forks 0x402000 4).Ready R ∧ ((forks 0x402000 4).tile 0).enabled on = true
    ∧ ((0 : BitVec 10).toNat ≤ 688 ∧ R.rcd.next ≠ 16 ∧ R.rcd.depth ≠ 32 ∧ (0 : BitVec 16).toNat < G.desc.nstage ∧ cpOk (((forks 0x402000 4).tile 0).w 10) = true
      ∧ fpOk (((forks 0x402000 4).tile 0).w 11) = true)
    ∧ ((forks 0x402000 4).runGang R).any (fun g => g.foot.any (fun f => f.kind == .priv && decide (f.base ≤ 0x402000) && decide (0x402000 + 0x1800 ≤ f.base + f.len))) = true
    ∧ ((forks 0x402000 4).job? 1).any (fun j => j.ready.isEmpty && j.pending.isEmpty && decide (0 < j.readyQN)) = true ∧ R.rcd.handler = false
    ∧ (let u := (forks 0x402000 4).settleReady 1
       (u.job? 1).any (fun j => j.ready.isEmpty && j.pending.isEmpty && decide (0 < j.readyQN)) && isReady u R && decide (u.cur = 0) && (u.runGang R).isSome) = true
    ∧ (forks 0x402000 4).dequeRoom 1 ((forks 0x402000 4).placeTile 0 1 (some G) 0) = true :=
  ⟨ready_of (by decide +kernel), by decide +kernel, by decide +kernel, by decide +kernel, by decide +kernel, by decide +kernel, by decide +kernel, by decide +kernel⟩
theorem wit_TaskCreation_stops : ¬ ((689 : BitVec 10).toNat ≤ 688) ∧ (forks 0x404900 4).Ready R
    ∧ ((forks 0x404900 4).runGang R).any (fun g => g.foot.any (fun f => decide (f.base ≤ 0x404900) && decide (0x404900 + 0x1800 ≤ f.base + f.len))) = false
    ∧ (forks 0x402000 0).Ready R ∧ ((forks 0x402000 0).job? 1).any (fun j => decide (j.readyQN ≤ j.ready.length)) = true
    ∧ (let s := (forks 0x402000 4).setTile 0 { (forks 0x402000 4).tile 0 with deque := List.replicate 32 R.rcd }
       s.Ready R ∧ s.dequeRoom 1 (s.placeTile 0 1 (some G) 0) = false) :=
  ⟨by decide, ready_of (by decide +kernel), by decide +kernel, ready_of (by decide +kernel), by decide +kernel, ready_of (by decide +kernel), by decide +kernel⟩

/-- With tables that map the first 4 TB of the job's space to the same physical addresses, all rights. -/
def paged (s : State) : State :=
  let put (a v : Nat) (m : Memory) := m.writeLE a 8 v
  let s := { s with mem := put 0x200000 0x210003 (put 0x210000 0xD (put 0x220000 0x230003 (put 0x230000 0xD s.mem))) }
  match s.job? 1 with
  | some j => s.setJob 1 { j with s1root := 0x200000, s2root := 0x220000 }
  | none => s
def F : State := paged (onTile (fun t => { (t.setW 10 1000) with run := some { R with rcd := { R.rcd with jc := 1 } } }))
def RF : Run := { R with rcd := { R.rcd with jc := 1 } }
def child : Record := { R.rcd with fp := 0x402000, lin := 16, flags := mkFlags 2 0 1 true false }
/-- With a child of the task in its tile's deque. -/
def waiting : State := F.setTile 0 { F.tile 0 with deque := [child] }
/-- That child's record is to be read at an address where no record stands. -/
def unsound : State := waiting.setJob 1 { (waiting.job? 1).getD { polder := 0, jcbpa := 0, s2root := 0 } with images := [(child.addr, .mem 0x403000)] }
def idleTile (s : State) : State := s.setTile 0 { s.tile 0 with run := none }
def jobOf (s : State) : Job := (s.job? 1).getD { polder := 0, jcbpa := 0, s2root := 0 }
/-- The task's record written to its frame. -/
def leaves (s : State) (r : Run) (live : Nat) (q : Record → State → Bool) : Bool :=
  let rcd := r.written (nextPc r.pc) live false
  let sf := if s.isResident r.job r.rcd = true then s else s.failFrozen s.cur
  match (sf.countRetired s.cur sf.latched).writeBack s.cur r.job rcd with
  | .ok s1 => q rcd s1
  | .error _ => false
def stands (s : State) (r : Run) (live : Nat) : Bool :=
  (s.tile 0).mq.isEmpty && !s.scratchBusy s.cur && !(s.tile 0).spBad (s.tile 0).base (8 * live) && (s.job? 1).all (fun j => !j.blocked.contains r.taskAddr)
theorem wit_TaskEndsAndWaits : W.Ready R ∧ R.rcd.jc = 0 ∧ F.Ready RF ∧ RF.rcd.jc ≠ 0 ∧ F.ccy.toNat < ((F.tile 0).w 10).toNat
    ∧ ¬ (W.ccy.toNat < ((W.tile 0).w 10).toNat) ∧ (W.runGang R).any (fun g => !g.desc.dsm) = true
    ∧ stands F RF 688 = true ∧ leaves F RF 688 (fun _ s1 => decide (s1.cur = F.cur) && decide ((s1.tile s1.cur).run = some RF) && (s1.runGang RF).all (fun g => !g.desc.dsm)) = true
    ∧ ((F.vacate F.cur RF.job (RF.written (nextPc RF.pc) 0 false)).offer F.cur RF.job).isNone = true
    ∧ waiting.Ready RF ∧ stands waiting RF 0 = true ∧ leaves waiting RF 0 (fun rcd s1 => match (s1.vacate 0 RF.job rcd).offer 0 1 with
      | some (r1, s2) => decide (s1.cur = 0) && (match s2.liftRecord 1 0 r1 with
        | (s3, some r2) => !s3.frameBad 0 1 r2 && (match s3.bringIn 0 1 r2 with
          | .ok _ => true
          | .error _ => false)
        | _ => false)
      | none => false) = true
    ∧ ((waiting.vacate 0 1 (RF.written (nextPc RF.pc) 0 false)).offer 0 1).isSome = true
    ∧ unsound.Ready RF ∧ stands unsound RF 0 = true ∧ leaves unsound RF 0 (fun rcd s1 => match (s1.vacate 0 RF.job rcd).offer 0 1 with
        | some (r1, s2) => decide (s1.cur = 0) && (s2.liftRecord 1 0 r1).2.isNone
        | none => false) = true :=
  ⟨W_ready, rfl, ready_of (by decide +kernel), by decide, by decide +kernel, by decide +kernel, by decide +kernel, by decide +kernel, by decide +kernel, by decide +kernel,
    ready_of (by decide +kernel), by decide +kernel, by decide +kernel, by decide +kernel, ready_of (by decide +kernel), by decide +kernel, by decide +kernel⟩
/-- A request has bytes in the scratchpad that the task would leave. -/
theorem wit_TaskEndsAndWaits_busy : (let s := { waiting with barges := [B] }
      isReady s RF = true ∧ (s.tile 0).mq = [] ∧ (s.job? 1).all (fun j => !j.blocked.contains RF.taskAddr) = true ∧ s.isResident RF.job RF.rcd = false
      ∧ s.scratchBusy s.cur = true ∧ RF.rcd.jc ≠ 0 ∧ ((s.vacate 0 1 (RF.written (nextPc RF.pc) 0 false)).offer 0 1).isSome = true) := by decide +kernel
/-- The gang deterministic, its task's join issued or not. -/
def joins (j : Bool) : State := onGang (fun g => { g with desc := { g.desc with dsm := true }, tasks := g.tasks.map (fun x => { x with joining := j }) })
theorem wit_TaskEndsAndWaits_dsm : isReady (joins true) R = true ∧ isReady (joins false) R = true ∧ ((joins true).runGang R).any (fun g => g.desc.dsm) = true
    ∧ (((joins true).runGang R).bind (fun g => g.task? R.taskAddr)).any (fun x => x.joining) = true
    ∧ (((joins false).runGang R).bind (fun g => g.task? R.taskAddr)).any (fun x => !x.joining) = true := by decide +kernel
/-- A task whose parent is itself, with a child it counts; the border context. -/
def RP (jc : BitVec 32) : Run := { R with rcd := { R.rcd with parent := 0x4017C0, jc := jc } }
def RB : Run := { R with rcd := { R.rcd with flags := mkFlags 1 0 1 false true } }
theorem wit_TaskEndsAndWaits_done : (W.tile 0).mq = [] ∧ W.requestOpen R = false ∧ W.commandOpen R = false ∧ R.rcd.parent = 0
    ∧ isReady (onTile (fun t => { t with mq := [⟨none⟩] })) R = true ∧ isReady (withBarge B) R = true ∧ (withBarge B).requestOpen R = true
    ∧ (let s := onTile (fun t => { t with msg := some ⟨0, 0, 0, 0, false⟩ })
      isReady s R = true ∧ s.requestOpen R = false ∧ s.commandOpen R = true)
    ∧ isReady (onRun (fun _ => RB)) RB = true ∧ RB.rcd.handler = true ∧ RB.rcd.parent = 0
    ∧ (let s := onRun (fun _ => RP 1)
      isReady s (RP 1) = true ∧ (RP 1).rcd.parent ≠ 0 ∧ (let s0 := s.release s.cur .gang
        s0.cur = s.cur ∧ (s0.tile s.cur).run = some (RP 1) ∧ (s0.job? 1).any (fun j => !j.blocked.contains 0x4017C0) = true
        ∧ (match s0.decJC 1 0 0x4017C0 (some (RP 1).rcd) with
          | .ok _ => true
          | .error _ => false) = true)) := by decide +kernel
/-- A suspended parent whose record, with a JC, lies in its frame. -/
def asleepParent (jc : BitVec 32) (chk : Bool) : State :=
  match (paged (onTile (fun t => { t with run := none }))).devWrite 1 0 0x4017C0 accStore
      (if chk then { R.rcd with jc := jc }.bytes else leBytes 64 5) with
  | .ok s => (match s.job? 1 with
    | some j => s.setJob 1 { j with susp := [⟨0x4017C0, .join, 1⟩] }
    | none => s)
  | .error _ => W
def parentRead (s : State) (q : State → List Byte → Bool) : Bool := match s.devRead 1 (s.jobSite 1) 0x4017C0 64 accLoad with
  | .ok (s1, bs) => q s1 bs
  | .error _ => false
theorem wit_TaskEndsAndWaits_parent : (let s := onRun (fun _ => RP 1)
      AMap.get? J.images 0x4017C0 = none ∧ s.tiles.find? (fun e => e.2.hosts 1 0x4017C0) = some (0, s.tile 0) ∧ (s.tile 0).run = some (RP 1) ∧ (RP 1).rcd.jc ≠ 0 ∧ (RP 0).rcd.jc = 0)
    ∧ (let s := idleTile (onJob (fun j => { j with ready := [child, R.rcd] }))
      s.tiles.find? (fun e => e.2.hosts 1 0x4017C0) = none ∧ (jobOf s).ready = [child] ++ R.rcd :: [] ∧ R.rcd.addr = 0x4017C0 ∧ child.addr ≠ 0x4017C0)
    ∧ [asleepParent 1 true, asleepParent 2 true, asleepParent 0 true, asleepParent 1 false].all (fun s => (s.job? 1).any (fun j => match s.decHeld 1 0x4017C0 j with
      | .absent => j.susp == [⟨0x4017C0, .join, 1⟩] && s.tiles.all (fun e => e.2.deque.isEmpty && e.2.saved.isNone && !e.2.hosts 1 0x4017C0) && j.ready.isEmpty
      | _ => false) && (s.gang? 1 0).any (fun g => g.outlived.isEmpty)) = true
    ∧ [(1 : BitVec 32), 2].all (fun k => parentRead (asleepParent k true) (fun s1 bs => chkOk bs && decide ((Record.ofBytes bs).jc = k)
      && (match s1.taskWrite 1 (s1.jobSite 1) { Record.ofBytes bs with jc := k - 1 } 0x4017C0 { Record.ofBytes bs with jc := k - 1 }.bytes with
        | .ok _ => true
        | .error _ => false))) = true
    ∧ parentRead (asleepParent 0 true) (fun _ bs => chkOk bs && decide ((Record.ofBytes bs).jc = 0)) = true
    ∧ parentRead (asleepParent 1 false) (fun _ bs => !chkOk bs) = true := by decide +kernel
/-- A launch to be made: w10 a descriptor, w11 a status address, w12 a tag. -/
def launching (stat : Nat) : State := onTile (fun t => ((t.setW 10 0x500000).setW 11 (word stat)).setW 12 7)
/-- The same with the launches' set full, the task's gang its stream's head or not. -/
def launchFull (ticket : Nat) : State :=
  let s := launching 32
  let e : Entry := { key := R.rcd.key, ord := 0, eff := .launch 0 [], va := 0, slice := s.launchSlice 1, set := 0, ovf := false, step := 0 }
  s.setJob 1 (J.setGang 0 { G with ticket := ticket, entries := List.replicate 8 e })
def launchRoom (s : State) : Bool := match s.job? 1 with
  | some j => decide (s.stagedAt (fun e => decide (e.slice = s.launchSlice 1) && decide (e.set = 0) && !e.ovf) < 4 * (match s.polder? j.polder with
      | some q => q.memcfg.toNat / 4096 % 8
      | none => 2)) && decide (s.stagedAt (fun e => decide (e.slice = s.launchSlice 1) && e.ovf) < 32768)
  | none => false
def heads (s : State) : Bool := (s.job? 1).any (fun j => (s.runGang R).any (fun g => (j.stream g.stream).opened && decide ((j.stream g.stream).head = g.ticket)))
theorem wit_LaunchAndWake : (launching 32).Ready R ∧ R.rcd.handler = false ∧ ((launching 32).tile 0).w 11 = 32 ∧ ((launching 32).tile 0).enabled on = true
    ∧ (launching 1).Ready R ∧ ((launching 1).tile 0).w 11 = 1 ∧ (launching 32).job? R.job = some J ∧ (launching 32).runGang R = some G
    ∧ launchRoom (launching 32) = true ∧ heads (launching 32) = true ∧ R.stall = none
    ∧ (launchFull 1).Ready R ∧ launchRoom (launchFull 1) = false ∧ heads (launchFull 1) = true
    ∧ (launchFull 1).stagedAt (fun e => decide (e.slice = (launchFull 1).launchSlice 1) && e.ovf) < 32768
    ∧ (launchFull 2).Ready R ∧ launchRoom (launchFull 2) = false ∧ heads (launchFull 2) = false
    ∧ (withBarge B).requestOpen R = true ∧ (withBarge B).Ready R ∧ (withBarge B).runGang R = some G ∧ (withBarge B).job? R.job = some J := by
  refine ⟨ready_of (by decide +kernel), rfl, ?_, ?_, ready_of (by decide +kernel), ?_, ?_, ?_, ?_, ?_, rfl, ready_of (by decide +kernel), ?_, ?_, ?_,
    ready_of (by decide +kernel), ?_, ?_, ?_, ready_of (by decide +kernel), ?_, ?_⟩ <;> decide +kernel
/-- The task suspended until cycle 1000, its record in its frame; CCY and the room of the ready queue are as given. -/
def asleep (ccy room : Nat) : State :=
  match (paged (onTile (fun t => { t with run := none }))).devWrite 1 0 0x4017C0 accStore R.rcd.bytes with
  | .ok s => (match s.job? 1 with
    | some j => { s with ccy := word ccy }.setJob 1 { j with susp := [⟨0x4017C0, .until 1000, 1⟩], readyQN := room }
    | none => s)
  | .error _ => W
def awake (s : State) : State := match s.job? 1 with
  | some j => s.setJob 1 { j with susp := [], gangs := j.gangs.map (fun (e : Nat × Gang) => (e.1, { e.2 with
        tasks := e.2.tasks.map (fun (t : TaskInfo) => if t.addr = 0x4017C0 then { t with blocked := false } else t) })) }
  | none => s
theorem wit_LaunchAndWake_wake : ((asleep 1024 4).job? 1).any (fun j => (j.susp.any (fun x => decide (x.addr = 0x4017C0) && x.why == .until 1000))
      && decide (0x4017C0 ∉ j.blocked) && j.pending.isEmpty && decide (j.ready.length < j.readyQN)) = true
    ∧ (1000 + 1023) / 1024 * 1024 ≤ (asleep 1024 4).ccy.toNat ∧ ¬ ((1000 + 1023) / 1024 * 1024 ≤ (asleep 1023 4).ccy.toNat)
    ∧ ((asleep 1024 0).job? 1).any (fun j => j.pending.isEmpty && decide (j.readyQN ≤ j.ready.length)) = true
    ∧ (let s0 := awake (asleep 1024 4)
      match s0.devRead 1 (s0.jobSite 1) 0x4017C0 64 accLoad with
      | .ok (s1, bs) => let rcd := Record.ofBytes bs
        chkOk bs && !rcd.handler && (s1.gang? 1 rcd.gang.toNat).any (fun g => g.live && rcd.valid g.desc.nstage) && (match s1.taskWrite 1 (s1.jobSite 1) rcd rcd.addr rcd.bytes with
          | .ok _ => true
          | .error _ => false)
      | .error _ => false) = true := by decide +kernel

/-! Vectors, lazy-uniform registers. -/

/-- The streams a vector instruction reads through give their elements at once: none is bound, or v0 is and its lines are read. -/
theorem wit_VectorArithmetic : W.Ready R ∧ (∃ j ∈ List.range 32, ((W.tile W.cur).predWord on).getLsbD j = true)
    ∧ okP (streamsBefore [1, 2] (some 3) W) (fun _ s1 => isReady s1 R && decide (s1.cur = W.cur)) = true
    ∧ okP (streamsAfter (some 3) W) (fun _ _ => true) = true ∧ 8 ≤ Ty.bits .f32 ∧ (∀ j ∈ List.range 32, ((W.tile W.cur).predWord off).getLsbD j = false) :=
  ⟨W_ready, ⟨0, by decide +kernel⟩, by decide +kernel, by decide +kernel, by decide, by decide +kernel⟩
theorem wit_VectorMoves : W.Ready R ∧ 8 ≤ Ty.bits .s8 ∧ okP (streamsBefore [31, 31] (some 31) W) (fun _ s1 => isReady s1 R) = true := 
  ⟨W_ready, by decide, by decide +kernel⟩
theorem wit_VectorConversions : W.Ready R ∧ (Ty.bits .f32 ≤ Ty.bits .f32 ∧ ((0 : BitVec 3).toNat + 1) * (1024 / Ty.bits .f32) ≤ 1024 / Ty.bits .f32)
    ∧ (Ty.bits .e4m3 ≤ Ty.bits .f32 ∧ ((3 : BitVec 3).toNat + 1) * (1024 / Ty.bits .f32) ≤ 1024 / Ty.bits .e4m3)
    ∧ (¬ Ty.bits .f32 ≤ Ty.bits .e2m1 ∧ ((7 : BitVec 3).toNat + 1) * (1024 / Ty.bits .f32) ≤ 1024 / Ty.bits .e2m1) := ⟨W_ready, by decide⟩
theorem wit_VectorToScalarAndFlags : W.Ready R ∧ 8 ≤ Ty.bits .f16 ∧ (63 < 1024 / Ty.bits .f16) ∧ okP (streamsBefore [1] none W) (fun _ s1 => isReady s1 R) = true :=
  ⟨W_ready, by decide, by decide, by decide +kernel⟩

/-- y1 holds an image: KIND, LEN, digits. -/
def lazyImg (kind len digits : Nat) : State := onTile (fun t => t.putSp (t.base + 0x1280 + 64) (leBytes 64 (digits + 2 ^ 256 * len + 2 ^ 272 * kind)))
def lreg (s : State) : LReg := LReg.of ((s.tile 0).sp.readLE ((s.tile 0).base + 0x1280 + 64) 64)
theorem wit_LazyDecisions : (lazyImg 0 0 0).Ready R ∧ (lreg (lazyImg 0 0 0)).valid = false
    ∧ (lazyImg 1 0 0).Ready R ∧ (lreg (lazyImg 1 0 0)).valid = true ∧ (lreg (lazyImg 1 0 0)).len = 0 ∧ (lreg (lazyImg 1 0 0)).kind = 1
    ∧ (lreg (lazyImg 1 64 (2 ^ 255))).valid = true ∧ (lreg (lazyImg 1 64 (2 ^ 255))).digits * 2 = 1 * 2 ^ 256
    ∧ ((lreg (lazyImg 1 64 (2 ^ 255))).digits + 2 ^ 192) * 2 ^ 64 = (2 ^ 63 + 1) * 2 ^ 256
    ∧ (lazyImg 1 256 0).Ready R ∧ (lreg (lazyImg 1 256 0)).valid = true ∧ (lreg (lazyImg 1 256 0)).len = 256 ∧ (lreg (lazyImg 1 256 0)).digits = 0 := by 
  refine ⟨ready_of (by decide +kernel), by decide +kernel, ready_of (by decide +kernel), ?_, ?_, ?_, ?_, ?_, ?_, ready_of (by decide +kernel), ?_, ?_, ?_⟩ <;> decide +kernel
/-- A task of the machine whose generator's next block is known: the digit key of job 1 is zero. -/
theorem wit_LazyDecisions_extend : okP (extend 1 (lreg (lazyImg 1 0 0)) (lazyImg 1 0 0)) (fun y1 s1 => isReady s1 R && decide (s1.cur = 0) && decide (y1.len = 64)) = true
    ∧ (lreg (lazyImg 1 0 0)).len < 256 ∧ (lazyImg 1 0 0).job? R.job = some J := by decide +kernel

/-- A digit-source descriptor at the start of the tile's scratchpad, w10 its address. -/
def source (kind pos base nblk : Nat) : State :=
  onTile (fun t => (t.putSp 0 (leBytes 8 kind ++ (leBytes 8 pos ++ (leBytes 8 base ++ leBytes 8 nblk)))).setW 10 (word win))
/-- A reservation reads the descriptor, and its store of POS is allowed. -/
def draws (s : State) (pos : Nat) : Bool := okP (loadAt [(win, 32)] s) (fun bs s1 => decide (fieldAt bs 8 8 = pos)
  && okP (checkLanes .store [(win + 8, 8)] s1) (fun ls s2 => okB ((ls.forM (fun l => storeLane l (leBytes 8 (pos + 4))) : M Unit)
    (s2.setTile s2.cur ((s2.tile s2.cur).putSp ((s2.tile s2.cur).base + 0x1280) (leBytes 64 (2 ^ 272 + 2 ^ 320 * pos)))))))
theorem wit_LazyInstructions_draw : (source 1 0 0 0).Ready R ∧ draws (source 1 0 0 0) 0 = true ∧ draws (source 2 4 8 8) 4 = true ∧ 4 + 4 ≤ 8
    ∧ draws (source 2 5 8 8) 5 = true ∧ 8 < 5 + 4 ∧ (w10 33).Ready R ∧ 33 % 32 ≠ 0 ∧ (w10 32).Ready R ∧ 32 % 64 ≠ 0 :=
  ⟨ready_of (by decide +kernel), by decide +kernel, by decide +kernel, by decide, by decide +kernel, by decide, ready_of (by decide +kernel), by decide,
    ready_of (by decide +kernel), by decide⟩
theorem wit_LazyInstructions_digits : okP (streamsBefore [] (some 3) (source 1 0 0 0)) (fun _ s0 => okP (reserve 10 16 3 s0) (fun q s1 =>
      okP ((List.range 16).mapM (fun i => sourceBlock q.kind q.strm q.base (q.pos + word i)) s1) (fun bs s2 =>
        okB (streamsAfter (some 3) (s2.setTile s2.cur ((s2.tile s2.cur).setV 3 (BitVec.ofNat 1024 (vOfElems 64 (bs.map (·.toNat)))))))))) = true
    ∧ (lazyImg 1 64 (2 ^ 255)).Ready R ∧ (lreg (lazyImg 1 64 (2 ^ 255))).valid = true ∧ 64 ≤ (lreg (lazyImg 1 64 (2 ^ 255))).len := 
  ⟨by decide +kernel, ready_of (by decide +kernel), by decide +kernel, by decide +kernel⟩
/-- y1 and y2 hold 1/2 and 3/4 to 64 digits, an image stands at the start of the scratchpad, a table of one word behind it. -/
def lazy2 (b c : Nat) : State := onTile (fun t =>
  let img (d : Nat) := leBytes 64 (d + 2 ^ 256 * 64 + 2 ^ 272)
  ((((((t.putSp (t.base + 0x1280 + 64) (img (2 ^ 255))).putSp (t.base + 0x1280 + 128) (img (3 * 2 ^ 254))).putSp 0 (img 0)).putSp 64 (leBytes 8 5)).setW 10 (word win)).setW 11
    (word b)).setW 12 (word c))
theorem wit_LazyInstructions_images : (lazy2 3 4).Ready R ∧ okP (loadAt [(win, 32), (win + 32, 32)] (lazy2 3 4)) (fun bs _ => (LReg.of (leVal bs)).valid) = true
    ∧ okP (decideY 1 (.frac 3 (2 ^ 64)) (lazy2 3 4)) (fun _ _ => true) = true ∧ okP (decideY 1 (.frac 3 4) (lazy2 3 4)) (fun _ _ => true) = true
    ∧ okP (decideY 1 (Thr.ofNum (valueOf .f32 0x3F000000)) (lazy2 0x3F000000 0)) (fun _ _ => true) = true ∧ (valueOf .f32 0x3F000000).isNan = false
    ∧ (valueOf .f32 0x7FC00000).isNan = true
    ∧ (LReg.of (((lazy2 3 4).tile 0).sp.readLE (((lazy2 3 4).tile 0).base + 0x1280 + 128) 64)).valid = true
    ∧ (lreg (lazy2 3 4)).hi ≤ (LReg.of (((lazy2 3 4).tile 0).sp.readLE (((lazy2 3 4).tile 0).base + 0x1280 + 128) 64)).lo
    ∧ okP (loadWord (word (win + 64) + word (8 * (1 - 1))) (lazy2 (win + 64) 1)) (fun w s1 => w == 5
      && okB (searchLoop 1 (word (win + 64)) w.toNat 33 0 0 s1)) = true ∧ (lazy2 (win + 64) 1).Ready R
    ∧ okB (extendTo 1 256 4 (lreg (lazy2 0 0)) (lazy2 0 0)) = true := by
  refine ⟨ready_of (by decide +kernel), ?_, ?_, ?_, ?_, ?_, ?_, ?_, ?_, ?_, ready_of (by decide +kernel), ?_⟩ <;> decide +kernel

theorem wit_LazyInstructions_misaligned : isReady (lazy2 1 1) R = true ∧ (lreg (lazy2 1 1)).valid = true ∧ ((lazy2 1 1).tile 0).w 12 = 1 ∧ ((lazy2 1 1).tile 0).w 11 = 1 := by
  decide +kernel

/-! Barges. -/

/-- A request of 32 bytes from the start of the scratchpad to its second 64 KiB: w10 to w13. -/
def asking (b1 dst : Nat) : State := onTile (fun t => (((t.setW 10 (word (32 * 2 ^ 16 + 1 + b1))).setW 11 (word win)).setW 12 (word dst)).setW 13 0)
def reqOf (s : State) : BReq := let t := s.tile 0; BReq.of (t.w 10) (t.w 11) (t.w 12) (t.w 13)
theorem wit_BargeInstructions : (asking 0 (win + 0x10000)).Ready R ∧ ((asking 0 (win + 0x10000)).tagged R 3).isNone = true
    ∧ (reqOf (asking 0 (win + 0x10000))).ok (some G) = true ∧ okP (checkReq (reqOf (asking 0 (win + 0x10000))) (asking 0 (win + 0x10000)))
      (fun _ s1 => decide (s1 = asking 0 (win + 0x10000))) = true
    ∧ (asking 0 (win + 0x10001)).Ready R ∧ (reqOf (asking 0 (win + 0x10001))).misaligned = some (win + 0x10001)
    ∧ (reqOf (asking 0 (win + 0x10001))).ok (some G) = true ∧ (asking 64 0).Ready R ∧ (reqOf (asking 64 0)).ok (some G) = false := 
  ⟨ready_of (by decide +kernel), by decide +kernel, by decide +kernel, by decide +kernel, ready_of (by decide +kernel), by decide +kernel, by decide +kernel, ready_of (by decide +kernel),
    by decide +kernel⟩
/-- With eight requests in the tile's FIFO. -/
def fifoFull : State := (asking 0 (win + 0x10000)).setTile 0 { (asking 0 (win + 0x10000)).tile 0 with fifo := List.range' 100 8 }
theorem wit_BargeInstructions_tagged : fifoFull.Ready R ∧ okB (checkReq (reqOf fifoFull) fifoFull) = true ∧ 8 ≤ (fifoFull.tile 0).fifo.length
    ∧ (withBarge B).Ready R ∧ (withBarge B).tagged R 3 = some B ∧ B.failed = none ∧ B.frozen = none ∧ (B.chans[0]?).isSome = true ∧ B.chans.length ≤ (1 : BitVec 10).toNat
    ∧ (withBarge { B with promise := 0 }).tagged R 3 = some { B with promise := 0 } ∧ (0 : Word).toNat ≤ (withBarge B).ccy.toNat ∧ (withBarge B).ccy.toNat < B.promise.toNat
    ∧ (withBarge { B with promise := 0 }).Ready R ∧ (withBarge { B with failed := some 5 }).Ready R
    ∧ (withBarge { B with failed := some 5 }).tagged R 3 = some { B with failed := some 5 } := by
  refine ⟨ready_of (by decide +kernel), ?_, ?_, ready_of (by decide +kernel), ?_, ?_, ?_, ?_, ?_, ?_, ?_, ?_, ready_of (by decide +kernel), ready_of (by decide +kernel), ?_⟩ <;> decide +kernel
def B0 : Barge := { B with accepted := false }
/-- Frozen, and not observed. -/
def BF : Barge := { B with frozen := some 0x400000 }
theorem wit_BargeInstructions_frozen : isReady (withBarge BF) R = true ∧ (withBarge BF).tagged R 3 = some BF ∧ BF.failed = none ∧ BF.observed = false
    ∧ 0 < BF.chans.length := by decide +kernel
theorem wit_BargeEngines : (let s := { onTile (fun t => { t with fifo := [0] }) with barges := [B0], nbarge := 1 }
      (s.tile 0).fifo = [0] ∧ s.barges.find? (fun x => decide (x.id = 0)) = some B0 ∧ B0.tile = 0 ∧ (s.tile 0).run = some R ∧ R.job = B0.job ∧ R.rcd.addr = B0.task)
    ∧ (withBarge B).bargeHeld B = false ∧ (withBarge B).parkedNow B = false ∧ B.kept = []
    ∧ B.overwrites 0 ⟨0, win + 0x10000, 32, win + 0x10000⟩ (win + 0x10000) = false ∧ B.nextUnit = some (0, ⟨0, win + 0x10000, 32, win + 0x10000⟩, 0) ∧ (withBarge B).unitHeld B 0 (B.srcAt 0 0) = false
    ∧ (withBarge B).unitHeld B 0 (win + 0x10000) = false
    ∧ (match (withBarge B).readUnit B (B.srcAt 0 0) with
      | .ok s1 bs => (match s1.writeUnit B ⟨0, win + 0x10000, 32, win + 0x10000⟩ (win + 0x10000) B.ord bs with
        | .ok s2 _ => decide (s2.barges.find? (fun x => decide (x.id = 0)) = some B)
        | _ => false)
      | _ => false) = true
    ∧ ((withBarge B).tile B.tile).spBad 0 32 = false ∧ 0x0FFFFFFFFE000000 ≤ win ∧ win < 0x0FFFFFFFFE180000 := by decide +kernel
/-- The task waits in a bgsleep of tag 3, whose promise has passed. -/
def late : State := let s := State.reset.withFetchWord 96 0x690000000000000000000003
  { s.setTile 0 { s.tile 0 with run := (s.tile 0).run.map (fun (r : Run) => { r with stall := some ⟨.sleep 3, 0⟩ }) } with barges := [{ B with promise := 0 }], nbarge := 1 }
theorem wit_BargeEngines_late : (late.tile 0).run.any (fun r => r.stall == some ⟨.sleep 3, 0⟩ && (match late.fetchCheck 0 r r.pc r.entry with
      | .ok (_, w, _) => decide (decode w = some (.bgsleep on false 3))
      | .error _ => false) && decide (late.tagged r 3 = some { B with promise := 0 })) = true := by decide +kernel

/-! Matrices. -/

/-- The machine with tile registers t0 and t1 configured, w10 the place of a copy, w11 its stride. -/
def mats (ty0 ty1 : Ty) (rows cols o st : Nat) : State := onTile (fun t =>
  let cfg (k : TReg) (ty : Ty) (t : Tile) := match (match execMcfg on ty k (BitVec.ofNat 8 rows) (BitVec.ofNat 10 cols) (State.setTile W 0 t) with
      | .next s => some (s.tile 0)
      | _ => none) with
    | some u => { u with mq := [], run := t.run }
    | none => t
  ((cfg 1 ty1 (cfg 0 ty0 t)).setW 10 (word o)).setW 11 (word st))
def confOf (s : State) (k : TReg) : TCfg := (s.tile 0).prepMat.conf k
theorem wit_MatrixCopies : let s := mats .e4m3 .e4m3 2 4 0x20000 256
    s.Ready R ∧ (s.tile 0).mq = [] ∧ confOf s 0 = ⟨.e4m3, 2, 4⟩ ∧ ((s.tile 0).w 10).toNat = 0x20000 ∧ ((s.tile 0).opB (.reg 11)).toNat = 256
    ∧ 0x20000 + 1 * 256 + 4 ≤ s.spSize 0 ∧ (0x20000 + 1 * 256 + 4 ≤ (s.tile 0).base + 0x1480) ∧ (s.tile 0).spPoison = [] 
    ∧ ([0, 1, 2, 3].all (fun x => okP (chanWait (win + (0x20000 + x * 256)) 4 s) (fun _ u => decide (u = s)))) = true
    ∧ okP (copyWaits true (copyRanges (confOf s 0) false 0x20000 256) s) (fun _ u => decide (u = s)) = true := by
  refine ⟨ready_of (by decide +kernel), ?_, ?_, ?_, ?_, ?_, ?_, ?_, ?_, ?_⟩ <;> decide +kernel
theorem wit_MatrixCopies_stops : (mats .e4m3 .e4m3 129 4 0 0).Ready R ∧ confOf (mats .e4m3 .e4m3 129 4 0 0) 0 = ⟨.e4m3, 129, 4⟩
    ∧ (mats .e4m3 .e4m3 2 4 1 1).Ready R ∧ (mats .e4m3 .e4m3 2 4 0 1).Ready R
    ∧ (mats .e4m3 .e4m3 2 4 (2 ^ 40) 0).Ready R ∧ W.spSize 0 ≤ 2 ^ 40 ∧ (mats .e4m3 .e4m3 2 4 ((W.tile 0).base + 0x1480) 0).Ready R
    ∧ ((W.tile 0).base + 0x1480) % 32 = 0
    ∧ (let s := onTile (fun t => { t with mq := List.replicate 6 ⟨none⟩ })
       s.Ready R ∧ 6 ≤ (s.tile 0).mq.length) := by
  refine ⟨ready_of (by decide +kernel), by decide +kernel, ready_of (by decide +kernel), ready_of (by decide +kernel), ready_of (by decide +kernel), by decide +kernel,
    ready_of (by decide +kernel), by decide +kernel, ready_of (by decide +kernel), by decide +kernel⟩
/-- A polder of one quadrant whose save pool is full, a root that waits on tile 0 with its matrix state in the unit. -/
def poolFull : State :=
  let s := onJob (fun j => { j with pool := List.replicate 576 (0, {}) })
  { s.setTile 0 { s.tile 0 with matClean := false, root := some { rcd := R.rcd, job := 1, base := 0x15E800 } } with
    polders := [(0, { qx0 := 0, qx1 := 0, qy0 := 0, qy1 := 0 })] }
theorem wit_matRoom : isReady poolFull R = true ∧ poolFull.matRoom = false ∧ W.matRoom = true ∧ (mats .e4m3 .e4m3 2 4 0x20000 256).matRoom = true
    ∧ (mats .e4m3 .e5m2 2 4 0 0).matRoom = true ∧ ((mats .e4m3 .e5m2 2 4 0 0).tile 0).prepMat.mat.bad = []
    ∧ ((mats .e4m3 .e5m2 2 4 0 0).tile 0).prepMat.mqBad = false ∧ (let s := onTile (fun t => { t with mqBad := true })
      isReady s R = true ∧ s.matRoom = true ∧ (s.tile 0).prepMat.mqBad = true ∧ (s.tile 0).prepMat.mq.length < 6) := by decide +kernel
theorem wit_MatrixProducts : (let s := mats .e4m3 .e5m2 2 4 0 0
      s.Ready R ∧ confOf s 0 = ⟨.e4m3, 2, 4⟩ ∧ confOf s 1 = ⟨.e5m2, 2, 4⟩ ∧ (s.tile 0).mq = [] ∧ (126 : BitVec 7).toNat + 2 ≤ 128)
    ∧ (let s := mats .s8 .ss8 128 256 0 0
      s.Ready R ∧ confOf s 0 = ⟨.s8, 128, 256⟩ ∧ confOf s 1 = ⟨.ss8, 128, 256⟩ ∧ (0 : BitVec 7).toNat + 128 ≤ 128)
    ∧ (let s := mats .n32 .n32 128 64 0 0
      s.Ready R ∧ confOf s 0 = ⟨.n32, 128, 64⟩ ∧ confOf s 1 = ⟨.n32, 128, 64⟩ ∧ (63 : BitVec 6).toNat < 64)
    ∧ okP (streamsBefore (srRegs (.sr 5)) none (mats .e4m3 .e5m2 2 4 0 0)) (fun _ s1 => isReady s1 R && decide (s1.cur = 0)) = true
    ∧ confOf W 0 = ⟨(confOf W 0).ty, 0, 0⟩ := by
  refine ⟨⟨ready_of (by decide +kernel), ?_⟩, ⟨ready_of (by decide +kernel), ?_⟩, ⟨ready_of (by decide +kernel), ?_⟩, ?_⟩ <;> decide +kernel

/-- A capability of tile 0, of tenure 0, to job 1 in key epoch 0, whatever the tag is. -/
def capOf (rights : BitVec 6) : Word := Config.capTag 0 1 0 rights 0 ++ ((0 : BitVec 32) ++ (rights ++ (0 : BitVec 10)))
theorem capOf_nat (rights : BitVec 6) : (capOf rights).toNat = (Config.capTag 0 1 0 rights 0).toNat * 2 ^ 48 + rights.toNat * 2 ^ 10 := by
  have := rights.isLt
  simp only [capOf, BitVec.toNat_append, Nat.shiftLeft_eq]
  have hc := (Config.capTag 0 1 0 rights 0).isLt
  rw [← Nat.shiftLeft_eq, ← Nat.shiftLeft_eq, ← Nat.shiftLeft_add_eq_or_of_lt (by simp; omega)]
  simp [Nat.shiftLeft_eq]
theorem capOf_tile (rights : BitVec 6) : (capOf rights).toNat % 1024 = 0 := by rw [capOf_nat]; omega
theorem capOf_tag (rights : BitVec 6) : (capOf rights).toNat / 2 ^ 48 = (Config.capTag 0 1 0 rights 0).toNat := by
  have := rights.isLt
  rw [capOf_nat]; omega
theorem capOf_rights (rights : BitVec 6) : (capOf rights).extractLsb' 10 6 = rights := by
  have := rights.isLt
  apply BitVec.eq_of_toNat_eq
  rw [BitVec.extractLsb'_toNat, capOf_nat, Nat.shiftRight_eq_div_pow]; omega
theorem capOf_tenure (rights : BitVec 6) : (capOf rights).extractLsb' 16 32 = 0 := by
  have := rights.isLt
  apply BitVec.eq_of_toNat_eq
  rw [BitVec.extractLsb'_toNat, capOf_nat, Nat.shiftRight_eq_div_pow]
  show _ = 0
  omega
theorem capOf_ne (rights : BitVec 6) (h : rights ≠ 0) : capOf rights ≠ 0 := by
  intro h0
  have h1 := capOf_rights rights
  rw [h0] at h1
  exact h (by rw [← h1]; decide)
/-- The capability is good on a machine whose job's gang is CONCURRENT with a root on tile 0. -/
theorem capOf_good (s : State) (r : Run) (rights : BitVec 6) (k : Option Nat) (hr : rights ≠ 0) (hk : k.all (fun i => rights.getLsbD i) = true) (he : s.keyEpoch = 0) (hj : r.job = 1)
    (ht : (s.tile 0).owner = .job 1 ∧ (s.tile 0).tenure = 0 ∧ (s.tile 0).dying = false ∧ (s.tile 0).cess = none)
    (hg : (s.runGang r).any (fun g => decide (g.desc.cls = 2) && g.rootOn 0) = true) : s.capReason r (capOf rights) k = none := by
  have htag : (capOf rights).extractLsb' 48 16 = Config.capTag 0 1 0 rights 0 := by
    apply BitVec.eq_of_toNat_eq
    have := (Config.capTag 0 1 0 rights 0).isLt
    rw [BitVec.extractLsb'_toNat, Nat.shiftRight_eq_div_pow, capOf_tag]; omega
  obtain ⟨h1, h2, h3, h4⟩ := ht
  cases hg' : s.runGang r with
  | none => simp [hg'] at hg
  | some g =>
    simp only [hg', Option.any_some, Bool.and_eq_true, decide_eq_true_eq] at hg
    have hne : ¬ capOf rights = 0#64 := capOf_ne rights hr
    cases k <;> simp_all [State.capReason, capTile, capRights, capTenure, capOf_tile, capOf_rights, capOf_tenure, Config.nTiles]
/-- Job 1's gang CONCURRENT, one root on tile 0; the task sends from tile n. -/
def conc (n : Nat) (f : Tile → Tile) : State := 
  let s := onGang (fun g => { g with desc := { g.desc with cls := 2 }, placed := [0] })
  let s := if n = 0 then s else s.setTile 0 { s.tile 0 with run := none }
  let s := { s with cur := n }
  s.setTile n (f { W.tile 0 with sp := (W.tile 0).sp })
theorem conc_good (n : Nat) (f : Tile → Tile) (r : Run) (rights : BitVec 6) (k : Option Nat) (hr : rights ≠ 0) (hk : k.all (fun i => rights.getLsbD i) = true)
    (h : (let s := conc n f
      decide (s.keyEpoch = 0) && decide (r.job = 1) && decide ((s.tile 0).owner = .job 1) && decide ((s.tile 0).tenure = 0) && !(s.tile 0).dying && (s.tile 0).cess.isNone
        && (s.runGang r).any (fun g => decide (g.desc.cls = 2) && g.rootOn 0)) = true) : (conc n f).capReason r (capOf rights) k = none := by
  have hb (x y : Bool) (h : (x && y) = true) : x = true ∧ y = true := by simpa using h
  obtain ⟨h, h7⟩ := hb _ _ h
  simp only [Bool.and_eq_true, decide_eq_true_eq, Bool.not_eq_true', Option.isNone_iff_eq_none] at h
  obtain ⟨⟨⟨⟨⟨h1, h2⟩, h3⟩, h4⟩, h5⟩, h6⟩ := h
  exact capOf_good _ r rights k hr hk h1 h2 ⟨h3, h4, h5, h6⟩ h7
/-- The run with a verdict, with the end of a swap. -/
def RV (v : Option Nat) (w : Option Bool) : Run := { R with verdict := v, swapped := w }
theorem wit_RemoteCommands : W.Ready R ∧ (W.tile 0).owner = .job R.job ∧ (w10 576).Ready R ∧ R.verdict = none ∧ (W.tile 0).msg = none ∧ (W.tile 0).mq = []
    ∧ (∀ k : Fin 4, (W.tile 0).sgBound k = false) ∧ (onRun (fun _ => RV (some 0) none)).Ready (RV (some 0) none) ∧ (onRun (fun _ => RV (some 3) none)).Ready (RV (some 3) none)
    ∧ okB (streamsBefore [1] none (onRun (fun _ => RV (some 0) none))) = true ∧ (onRun (fun _ => RV none (some true))).Ready (RV none (some true))
    ∧ (onRun (fun _ => RV none (some false))).Ready (RV none (some false)) ∧ W.capReason R 0 (some 3) = some 1
    ∧ isReady (onRun (fun _ => { RV (some 0) none with sent := some 5 })) { RV (some 0) none with sent := some 5 } = true := by
  refine ⟨W_ready, ?_, ready_of (by decide +kernel), ?_, ?_, ?_, ?_, ready_of (by decide +kernel), ready_of (by decide +kernel), ?_, ready_of (by decide +kernel),
    ready_of (by decide +kernel), by simp [State.capReason], ?_⟩ <;> decide +kernel
/-- A swap inside tile 0: w10 the capability, w11 and w12 the ranges. -/
def swapping : State := conc 0 (fun t => ((t.setW 10 (capOf 63)).setW 11 0).setW 12 32)
theorem wit_RemoteCommands_caps : (conc 0 id).capReason R (capOf 63) (some 3) = none ∧ (conc 0 id).Ready R
    ∧ (32 % 32 = 0 ∧ 32 ≤ 32 ∧ 0 + 32 ≤ (conc 0 id).spSize 0 ∧ 32 + 32 ≤ ((conc 0 id).tile 0).base + 0x1480)
    ∧ okP (copyWaits false [(0, 32)] (conc 0 id)) (fun _ u => decide (u = conc 0 id)) = true ∧ okP (copyWaits true [(32, 32)] (conc 0 id)) (fun _ u => decide (u = conc 0 id)) = true
    ∧ ((conc 0 id).tile 0).spBad 0 32 = false ∧ (capOf 63).toNat % 1024 = 0 := by
  refine ⟨conc_good 0 id R 63 _ (by decide) (by decide) (by decide +kernel), ready_of (by decide +kernel), ?_, ?_, ?_, ?_, capOf_tile 63⟩ <;> decide +kernel
/-- A command on its way from tile 1. -/
def sent (m : MMsg) : State := conc 1 (fun t => { t with msg := some m })
def tzeroW : IWord := encode (.tzero on 0)
def tldW : IWord := encode (.tld on 0 0 (.imm 0))
def M63 (w : IWord) : MMsg := ⟨capOf 63, w, 0, 0, false⟩
theorem wit_RemoteCommands_arrival : ((sent (M63 tzeroW)).tile 1).msg = some (M63 tzeroW) ∧ ((sent (M63 tzeroW)).tile 1).run = some R
    ∧ (sent (M63 tzeroW)).capReason R (capOf 63) (some 0) = none ∧ (sent (M63 0)).capReason R (capOf 63) none = none ∧ decode 0 = none
    ∧ decode tzeroW = some (.tzero on 0) ∧ cmdRight (.tzero on 0) = some 0 ∧ cmdShape (.tzero on 0) = true ∧ decode tldW = some (.tld on 0 0 (.imm 0))
    ∧ (match (cmdOp true 0x160000 ((conc 1 id).tile 0) 0 0 (.tld on 0 0 (.imm 0))).2.2 with
      | .error e => e != .poison
      | .ok _ => false) = true
    ∧ (match (cmdOp true 0x160000 ((conc 1 id).tile 0) 0 0 (.tzero on 0)).2.2 with
      | .error _ => false
      | .ok _ => true) = true
    ∧ (conc 1 id).cmdHeld R 0 (false, []) = false ∧ ((conc 1 id).tile 0).mqBad = false := by
  refine ⟨rfl, ?_, ?_, ?_, ?_, ?_, ?_, ?_, ?_, ?_, ?_, ?_, ?_⟩
  case refine_2 => exact conc_good 1 _ R 63 _ (by decide) (by decide) (by decide +kernel)
  case refine_3 => exact conc_good 1 _ R 63 _ (by decide) (by decide) (by decide +kernel)
  all_goals decide +kernel
theorem wit_RemoteCommands_swap : (let s := (conc 1 (fun t => { t with swap := some ⟨0, 0, 32, 32⟩ })).setTile 0 { (conc 1 id).tile 0 with swap := some ⟨1, 64, 96, 32⟩ }
      (s.tile 1).swap = some ⟨0, 0, 32, 32⟩ ∧ (s.tile 0).swap = some ⟨1, 64, 96, 32⟩ ∧ (s.tile 1).spBad 0 32 = false ∧ (s.tile 0).spBad 64 32 = false) := by decide +kernel

/-- An mcmd and an mswap that have begun. -/
def begunTile (f : Tile → Tile) (i : Instr) : State := onTile (fun t => { f t with run := some { R with begun := some i } })
theorem wit_RemoteCommands_begun : (let s := begunTile (fun t => { t with msg := some ⟨0, 0, 0, 0, false⟩ }) (.mcmd on 10 1)
      isReady s { R with begun := some (.mcmd on 10 1) } = true ∧ (s.tile 0).msg.isSome = true)
    ∧ (let s := begunTile (fun t => { t with swap := some ⟨1, 0, 32, 32⟩ }) (.mswap on 10 11 12 32)
      isReady s { R with begun := some (.mswap on 10 11 12 32) } = true ∧ (s.tile 0).swap.isSome = true) := by decide +kernel

/-! Launch ports, graphs, collectives. -/

def cmdBytes (addr code stat : Nat) : List Byte := leBytes 8 addr ++ (leBytes 8 code ++ (leBytes 8 7 ++ (leBytes 8 stat ++ List.replicate 32 0)))
/-- Job 1 has a job-written area, a descriptor at 0x500000, a template of two nodes at 0x500800; stream 0 as given. -/
def ported (x : Stream) : State :=
  let s := paged W
  let put (a n v : Nat) (m : Memory) : Memory := m.writeLE a n v
  let m := put 0x100014 4 1 (put 0x100018 8 0x500400 (put 0x100020 8 0x600000 (put 0x100028 4 64 s.mem)))
  let m := put 0x500000 8 0x10000 (put 0x500008 4 1 (put 0x500014 2 1 (put 0x500016 2 1 (put 0x500018 8 0x500100 (put 0x500038 8 0x700000 m)))))
  let m := put 0x500100 8 0x700000 (put 0x500108 8 0x1800 (put 0x500110 8 3 (put 0x500400 8 0x10000 (put 0x500408 8 64 m))))
  let m := put 0x500800 4 2 (put 0x500804 4 1 (put 0x500808 8 0x500900 (put 0x500810 8 0x500A00 (put 0x500A00 4 1 m))))
  let m := put 0x500900 8 0x500000 (put 0x50090A 2 1 (put 0x500910 8 0x500000 (put 0x500918 2 1 (put 0x50091C 4 1 m))))
  let s := { s with mem := m }
  match s.job? 1 with
  | some j => s.setJob 1 (j.setStream 0 x)
  | none => s
def port (c : List Byte) (opened : Bool) (tail head : Nat) : State := ported { opened := opened, tail := tail, head := head, queue := [⟨c, false⟩] }
theorem wit_LaunchPorts : (let s := port (cmdBytes 0x500000 1 32) true 1 1
      s.front 1 0 = some (cmdBytes 0x500000 1 32) ∧ fieldAt (cmdBytes 0x500000 1 32) 8 1 = 1 ∧ fieldAt (cmdBytes 0x500000 1 32) 24 8 = 32
      ∧ ((s.readLaunch 1 (jobOf s) 0x500000 0 (fun _ => 0)).1 = [] ∧ (s.readLaunch 1 (jobOf s) 0x500000 0 (fun _ => 0)).2.any (fun l => decide (l.desc.stream = 0)) = true)
      ∧ (s.readLaunch 1 (jobOf s) 0x500040 0 (fun _ => 0)).1 ≠ [])
    ∧ (port (cmdBytes 0 3 0) false 0 0).front 1 0 = some (cmdBytes 0 3 0) ∧ (port (cmdBytes 0 3 0) true 0 0).front 1 0 = some (cmdBytes 0 3 0)
    ∧ (port (cmdBytes 0 4 0) true 3 4).front 1 0 = some (cmdBytes 0 4 0) ∧ (port (cmdBytes 0 4 0) true 3 2).front 1 0 = some (cmdBytes 0 4 0)
    ∧ (port (cmdBytes 0 5 0) true 3 2).front 1 0 = some (cmdBytes 0 5 0) ∧ (port (cmdBytes 0 1 1) true 3 2).front 1 0 = some (cmdBytes 0 1 1) := by decide +kernel
theorem wit_GraphsAndChecks : (let s := port (cmdBytes 0x500800 2 0) true 1 1
      s.front 1 0 = some (cmdBytes 0x500800 2 0) ∧ fieldAt (cmdBytes 0x500800 2 0) 8 1 = 2 ∧ (s.readGraph 1 (jobOf s) (cmdBytes 0x500800 2 0) 0).1 = []
      ∧ (s.readGraph 1 (jobOf s) (cmdBytes 0x500800 2 0) 0).2.length = 2 ∧ 2 ≤ s.countersFree (jobOf s)
      ∧ (s.readGraph 1 (jobOf s) (cmdBytes 0x500840 2 0) 0).1 ≠ [])
    ∧ (let s := port (cmdBytes 0x500800 2 0) true 1 1
      let s := s.setJob 1 { jobOf s with graphs := [⟨0, 0, 0, 0, List.replicate 65535 ⟨0, 0, 0, [], 1, none⟩⟩] }
      s.countersFree (jobOf s) < 2)
    ∧ (∀ p, W.polder? J.polder = some p → p.quads = List.range 16) := by decide +kernel

/-- An ALLREDUCE of two f32 elements, its group 5 of two packages; op 1, ROP add, TYPE F32. -/
def collBytes (op : Nat) : List Byte := leBytes 8 0x500000 ++ (leBytes 8 0x500080 ++ (leBytes 8 7 ++ (leBytes 8 0 ++ (leBytes 4 2 ++ (leBytes 1 op ++ (leBytes 1 0 ++ (leBytes 1 10
  ++ (leBytes 1 0 ++ (leBytes 2 5 ++ List.replicate 22 0)))))))))
def group5 (rank : Nat) : Group := { num := 5, job := 1, rank := rank, table := [(1, 0), (2, 0)], issued := 1 }
/-- With a collective port's stream, its commands, the collectives accepted. -/
def collecting (op rank : Nat) (opened : Bool) (tail head : Nat) (cs : List Coll) : State :=
  let s := ported { opened := opened, tail := tail, head := head, cqueue := [⟨collBytes op, false⟩] }
  { s with groups := [group5 rank] }.setJob 1 { jobOf s with colls := cs }
def coll (op : Nat) : Coll := { stream := 0, ticket := 1, cmd := collBytes op, group := 5, k := 1 }
theorem wit_Collectives : (collecting 1 0 true 1 1 []).collFront 1 0 = some (collBytes 1) ∧ (collecting 1 0 true 1 1 []).collOk 1 (collBytes 1) = true
    ∧ (collecting 3 0 true 1 1 []).collOk 1 (collBytes 3) = true ∧ (collecting 2 0 true 1 1 []).collOk 1 (collBytes 2) = true
    ∧ (collecting 4 0 true 1 1 []).collOk 1 (collBytes 4) = false ∧ (collecting 1 0 false 0 0 []).collFront 1 0 = some (collBytes 1)
    ∧ (collecting 1 0 true (2 ^ 48 - 1) 1 []).collFront 1 0 = some (collBytes 1) ∧ fieldAt (collBytes 1) 40 2 = 5
    ∧ (collecting 1 0 true 1 1 []).group? 5 = some (group5 0) := by decide +kernel
theorem wit_Collectives_head : (let s := collecting 1 1 true 1 1 [coll 1]
      s.headColl 1 0 = some (coll 1) ∧ s.group? 5 = some (group5 1) ∧ s.dhq = [] ∧ s.devBad 1 0 0x500000 8 accLoad = false
      ∧ (match s.devRead 1 (s.jobSite 1) 0x500000 8 accLoad with
        | .ok _ => true
        | .error _ => false) = true)
    ∧ (let s := collecting 3 1 true 1 1 [coll 3]
      s.headColl 1 0 = some (coll 3) ∧ ¬ (fieldAt (collBytes 3) 36 1 ≠ 3 ∨ (group5 1).rank = 0))
    ∧ (let c := { coll 1 with started := true, announced := true, result := some [1, 2] }
      let s := collecting 1 1 true 1 1 [c]
      s.headColl 1 0 = some c ∧ (match s.devWrite 1 (s.jobSite 1) 0x500080 accStore (leBytes 4 1 ++ leBytes 4 2) with
        | .ok _ => true
        | .error _ => false) = true)
    ∧ (let c := { coll 1 with failed := true }
      (collecting 1 1 true 1 1 [c]).headColl 1 0 = some c) := by decide +kernel
theorem wit_Collectives_messages : (let s := collecting 1 0 true 1 1 [coll 1]
      s.job? (group5 0).job = some (jobOf s) ∧ (jobOf s).colls = coll 1 :: [] ∧ (coll 1).group = 5 ∧ (coll 1).k ≤ (group5 0).issued ∧ (coll 1).announced = false ∧ (coll 1).subs = [] ∧ (coll 1).result = none
      ∧ fieldAt (coll 1).cmd 36 1 ≠ 3)
    ∧ (let c := { coll 1 with started := true, subs := [(3, [5]), (4, [6])] }
      c.started = true ∧ 4 = 2 * 1 + 2 ∧ c.subs.find? (fun e => decide (e.1 = 2 * 1 + 1)) = some (3, [5]) ∧ c.subs.find? (fun e => decide (e.1 = 2 * 1 + 2)) = some (4, [6])
      ∧ c.subs.find? (fun e => decide (e.1 = 2 * 0 + 1)) = none) := by decide +kernel

/-- A collective of rank 0 that has failed before its announcement. -/
theorem wit_Collectives_failed : (let s := collecting 1 0 true 1 1 [{ coll 1 with failed := true }]
      s.job? (group5 0).job = some (jobOf s) ∧ (jobOf s).colls = [{ coll 1 with failed := true }] ∧ (coll 1).announced = false) := by decide +kernel

/-! Scheduling. -/

/-- A gang of job 1 that waits, in place of the one that runs. -/
def waitingGang (f : Gang → Gang) : State := onGang (fun g => f { g with phase := .waiting, dispatched := false, tasks := [] })
theorem wit_GangScheduling_ready : (let s := waitingGang id
      (s.gang? 1 0).any (fun g => g.phase == .waiting && g.readyAt.isNone && !g.desc.aftv && g.node.isNone) = true)
    ∧ (let s := waitingGang (fun g => { g with desc := { g.desc with aftv := true, afts := 1 } })
      (s.gang? 1 0).any (fun g => g.desc.aftv && !g.aftDone) = true ∧ ((s.job? 1).any (fun j => !(j.stream 1).opened)) = true) := by decide +kernel

/-- It waits for a collective's ticket that containment has taken away. -/
theorem wit_GangScheduling_lost : (let s := (waitingGang (fun g => { g with desc := { g.desc with aftv := true, afts := 1, afttk := 1 }, aftEpoch := 1 }))
      let s := s.setJob 1 ((jobOf s).setStream 1 { opened := true, tail := 1, head := 2, epoch := 1, lost := [1] })
      s.job? 1 = some (jobOf s) ∧ (s.gang? 1 0).any (fun g => g.desc.aftv && !g.aftDone && ((jobOf s).stream g.desc.afts).lost.contains g.desc.afttk) = true) := by
  decide +kernel

def readyGang (f : Gang → Gang) : State := { idleTile (waitingGang (fun g => f { g with readyAt := some 0 })) with ccy := 32 }
def pol (s : State) : Polder := (s.polder? 0).getD { qx0 := 0, qx1 := 0, qy0 := 0, qy1 := 0 }
theorem wit_GangScheduling : (let s := readyGang id
      s.polder? 0 = some (pol s) ∧ (pol s).lastSel + 32 ≤ s.ccy.toNat ∧ s.candidates 0 (pol s) ≠ [] ∧ s.job? 1 = some (jobOf s) ∧ (s.gang? 1 0).any (fun g => g.desc.cls != 2) = true
      ∧ (s.tile 0).owner = .job 1 ∧ (s.tile 0).cess = none ∧ (s.tile 0).dying = false ∧ (s.tile 0).strip = 0 ∧ s.tiles.any (fun e => e.1 == 0) = true)
    ∧ (let s := { readyGang id with ccy := 31 }
      s.ccy.toNat < (pol s).lastSel + 32)
    ∧ (let s := { W with ccy := 32 }
      s.candidates 0 (pol s) = []) := by decide +kernel
/-- The gang CONCURRENT, selected, waiting for its tile. -/
def placing (k : Nat) (ns : List Nat) (f : State → State) : State :=
  let s := f (readyGang (fun g => { g with desc := { g.desc with cls := 2 }, dispatched := true, placing := k, placed := ns }))
  s.setPolder 0 { pol s with waitPlace := [(1, 0)] }
theorem wit_GangScheduling_place : (let s := placing 0 [] id
      s.job? 1 = some (jobOf s) ∧ ((jobOf s).gang? 0).any (fun g => s.chooseTiles 1 0 (jobOf s) g == some [0] && g.desc.shape == 0 && g.desc.cls == 2) = true
      ∧ s.polder? (jobOf s).polder = some (pol s) ∧ (1, 0) ∈ (pol s).waitPlace)
    ∧ (let s := placing 0 [] (fun s => s.setTile 0 { s.tile 0 with owner := .unowned })
      ((jobOf s).gang? 0).any (fun g => s.chooseTiles 1 0 (jobOf s) g == none) = true)
    ∧ (let s := placing 1 [0] id
      (s.gang? 1 0).any (fun g => g.placing == 1 && g.ousted.isEmpty && g.placed == [0] && g.desc.ntask == 1) = true ∧ (s.tile 0).run = none ∧ (s.tile 0).saved = none
      ∧ (s.tile 0).deque = []) := by decide +kernel

/-- The gang deterministic, its one task's part ended, or not. -/
def closing (ended : Bool) : State := onGang (fun g => { g with desc := { g.desc with dsm := true }, tasks := g.tasks.map (fun x => { x with ended := ended }) })
/-- A quantum that nobody has begun. -/
def asleepAll : State := onGang (fun g => { g with desc := { g.desc with dsm := true }, dormant := true, tasks := g.tasks.map (fun x => { x with ended := true, blocked := true }) })
theorem wit_QuantaAndTaking : ((closing true).gang? 1 0).any (fun g => g.phase == .running && g.desc.dsm && !g.tasks.isEmpty
      && g.tasks.all (fun x => x.ended && x.amo.isNone && x.owes.isNone && !x.blocked && decide (x.addr = R.taskAddr))
      && (match State.serveAll 1 0 g.tasks (closing true) with
        | (s1, b) => b && (match State.payAll 1 0 g.tasks s1 with
          | (s2, c) => c && (s2.gang? 1 0).any (fun h => h.phase == .running)))) = true
    ∧ ((closing true).gang? 1 0).any (fun g => !g.dormant) = true
    ∧ (let s := asleepAll
      (s.gang? 1 0).any (fun g => g.dormant && !g.tasks.isEmpty && g.tasks.all (fun x => x.ended && x.blocked)) = true)
    ∧ ((closing true).tile 0).run = some R ∧ ((closing false).gang? 1 0).any (fun g => g.tasks.any (fun x => !x.ended)) = true := by decide +kernel
theorem wit_QuantaAndTaking_contended : ((onRun (fun r => { r with contended := 65536 })).tile 0).run = some { R with contended := 65536 } ∧ R.reqs = [] ∧ R.contended < 65536
    ∧ ((onTile (fun t => { t with run := none, idle := 4096 })).tile 0).idle = 4096 ∧ ((onTile (fun t => { t with run := none, idle := 4095 })).tile 0).idle < 4096 := by decide +kernel
/-- An idle tile 0 of a job with memory, a record of the gang in its deque, or in the ready queue. -/
def taking (inDeque : Bool) : State :=
  let s := idleTile (paged W)
  if inDeque then s.setTile 0 { s.tile 0 with deque := [{ R.rcd with stage := 1 }, R.rcd] } else s.setJob 1 { jobOf s with ready := [R.rcd], readyQN := 64 }
def takes (s : State) : Bool := match s.findRecord 0 1 (jobOf s) with
  | some (x, s1) => decide (x = R.rcd) && !s1.devBad 1 0 x.fp.toNat (8 * x.live.toNat) accLoad && (match s1.startRecord 0 1 x with
    | .ok s2 => (s2.concurrentOn 0).isNone && (s2.job? 1).all (fun j => j.pending.isEmpty)
    | .error _ => false)
  | none => false
theorem wit_QuantaAndTaking_take : ((taking true).tile 0).owner = .job 1 ∧ (taking true).job? 1 = some (jobOf (taking true)) ∧ ((taking true).tile 0).run = none
    ∧ ((taking true).tile 0).saved = none ∧ ((taking true).tile 0).root = none ∧ ((taking true).tile 0).works 1 = true ∧ takes (taking true) = true ∧ takes (taking false) = true
    ∧ (taking true).mayTake 0 1 (jobOf (taking true)) { R.rcd with stage := 1 } = false ∧ (jobOf (taking true)).pending = []
    ∧ (taking true).mayTakeOwn 0 1 (jobOf (taking true)) { R.rcd with stage := 1 } = false
    ∧ (taking true).mayTakeOwn 0 1 (jobOf (taking true)) R.rcd = true
    ∧ (idleTile W).findRecord 0 1 (jobOf W) = none := by decide +kernel
theorem wit_QuantaAndTaking_place : ((taking true).tile 0).deque = [{ R.rcd with stage := 1 }] ++ R.rcd :: [] ∧ ((taking true).tile 0).deque.length ≤ 33
    ∧ (jobOf (taking true)).images = [] := by decide +kernel
theorem wit_QuantaAndTaking_restored : (let x := { R.rcd with seq := 1, live := 1 }
      let s := idleTile (paged W)
      let s := s.setTile 0 { s.tile 0 with deque := [x] }
      (match s.findRecord 0 1 (jobOf s) with
      | some (y, s1) => decide (y = x) && (match s1.startRecord 0 1 x, s1.devRead 1 0 x.fp.toNat 8 accLoad with
        | .ok _, .ok (_, bs) => decide (bs.length = 8)
        | _, _ => false)
      | none => false) = true) := by decide +kernel

def asked (src : PreSrc) (latch since : Nat) : State := let s := paged W
  s.setTile 0 { (s.tile 0).setCtl cLATCH (word latch) with matClean := true, run := some { R with reqs := [⟨src, since, []⟩] } }
theorem wit_Preemption : (asked .territory 0 0).concurrentOn 0 = none ∧ ((asked .territory 0 0).tile 0).run = some { R with reqs := [⟨.territory, 0, []⟩] } ∧ R.sup = false
    ∧ ((asked .territory 0 0).tile 0).ctl cLATCH = 0 ∧ ((asked .territory 5 0).tile 0).ctl cLATCH ≠ 0 ∧ (asked .territory 0 0).scratchBusy 0 = false
    ∧ ((asked .territory 0 0).tile 0).spBad ((asked .territory 0 0).tile 0).base 0x1580 = false
    ∧ (let s := poolFull.setTile 0 { poolFull.tile 0 with root := none }
      (s.tile 0).matClean = false ∧ s.poolRoom 0 393280 = false) := by decide +kernel

def stalled (since : Nat) : State := let s := asked .territory 5 since
  { s.setTile 0 { s.tile 0 with run := some { R with stall := some ⟨.verdict, 0⟩, reqs := [⟨.territory, since, []⟩] } } with ccy := 65536 }
/-- Saved for a request, its record to be copied out. -/
def savedFor (src : PreSrc) : Saved := { rcd := R.written R.pc 688 true, job := 1, req := ⟨src, 0, []⟩, mat := {}, matClean := true, pend := none, entry := false }
def saving (src : PreSrc) : State := let s := idleTile (paged W)
  (s.setTile 0 { s.tile 0 with saved := some (savedFor src) }).setJob 1 { jobOf s with readyQN := 64 }
theorem wit_Preemption_more : ((stalled 0).tile 0).ctl cLATCH ≠ 0 ∧ ((stalled 0).tile 0).run = some { R with stall := some ⟨.verdict, 0⟩, reqs := [⟨.territory, 0, []⟩] }
    ∧ (0 + 65536 ≤ (stalled 0).ccy.toNat) ∧ ¬ (1 + 65536 ≤ (stalled 1).ccy.toNat) ∧ (saving .quantum).concurrentOn 0 = none
    ∧ ((saving .quantum).tile 0).saved = some (savedFor .quantum) ∧ (jobOf (saving .quantum)).blocked = []
    ∧ (match (saving .quantum).writeBack 0 1 (savedFor .quantum).rcd with
      | .ok _ => true
      | .error _ => false) = true
    ∧ (saving .quantum).stays (savedFor .quantum) = false ∧ (saving .quantum).job? 1 = some (jobOf (saving .quantum)) ∧ (jobOf (saving .quantum)).ready.length < (jobOf (saving .quantum)).readyQN
    ∧ ((saving .dispatch).tile 0).deque = [] ∧ ((saving .territory).tile 0).cess = none := by decide +kernel
/-- The CONCURRENT gang of tile 0 is to leave as a whole. -/
def leaving : State := let s := paged (onGang (fun g => { g with desc := { g.desc with cls := 2 }, placed := [0], out := true }))
  s.setTile 0 { s.tile 0 with run := some { R with reqs := [⟨.territory, 0, []⟩] } }
theorem wit_Preemption_gang : leaving.concurrentOn 0 = some (1, 0) ∧ (leaving.gang? 1 0).any (fun g => leaving.gangMayStop g && g.placed == [0]) = true ∧ (leaving.tile 0).fifo = []
    ∧ (leaving.tile 0).spBad (leaving.tile 0).base 0x1580 = false := by decide +kernel
/-- The tile in the pre-emption routine; also as one of a CONCURRENT gang's tiles. -/
def routine (gang : Bool) : State :=
  let s := paged (if gang then onGang (fun g => { g with desc := { g.desc with cls := 2 }, placed := [0], out := true }) else W)
  s.setTile 0 { s.tile 0 with run := some { R with sup := true, firm := some .save, reqs := [⟨.quantum, 0, []⟩] } }
theorem wit_Preemption_routine : (routine false).concurrentOn 0 = none ∧ (routine true).concurrentOn 0 = some (1, 0)
    ∧ ((routine true).gang? 1 0).any (fun g => g.placed == [0]) = true ∧ (routine false).drained 0 = true ∧ (routine true).drained 0 = true
    ∧ ((routine false).setTile 0 { (routine false).tile 0 with mq := [⟨none⟩] }).drained 0 = false
    ∧ ((routine false).tile 0).spBad ((routine false).tile 0).base 0x1580 = false ∧ ((routine false).tile 0).root = none
    ∧ (match exec (.preempt 0) (routine false) with
      | .next s => (s.tile 0).saved.any (fun w => w.req.src == .quantum)
      | _ => false) = true := by decide +kernel

/-! Territory. -/

/-- Jobs 1 and 2 with ceilings; tile 25 and more of job 1, tile 24 of job 2 with a great PRES. -/
def borders (ones : List Nat) (pres : Nat) : State :=
  let s := onJob (fun j => { j with ceil := 100 })
  let s := s.setJob 2 { polder := 0, jcbpa := 0x300000, s2root := 0, ceil := 100 }
  let s := idleTile s
  let s := ones.foldl (fun (s : State) n => s.setTile n { owner := .job 1 }) s
  s.setTile 24 { owner := .job 2, pres := BitVec.ofNat 16 pres }
def deciding : Deciding := ⟨[(1, 5), (2, 1)], [], []⟩
theorem wit_Territory_decide : (let s := borders [25, 26] 0xFFFF
      s.polder? 0 = some (pol s) ∧ (s.tile 25).owner = .job 1 ∧ (s.tile 25).dying = false ∧ (s.tile 25).cess = none ∧ t4Of (s.ringMarks 25 1) = 1
      ∧ (s.claimsOn 25).any (fun c => decide ((s.tile 25).pres.toNat * 256 / (jobOf s).weightOf + (pol s).bordercfg.toNat % 2 ^ 24 ≤ c.e) && c.job == 2) = true
      ∧ (jobOf s).floor < 5 ∧ (s.job? 2).any (fun a => decide (1 < a.ceil)) = true ∧ s.hostsConcurrent 25 = false ∧ (s.tile 25).tenure ≠ BitVec.allOnes 32)
    ∧ t4Of ((borders [25, 26, 1] 0xFFFF).ringMarks 25 1) ≠ 1 ∧ (borders [25, 26] 0).claimsOn 25 ≠ []
    ∧ ((borders [25, 26] 0).claimsOn 25).all (fun c => decide (c.e < (pol (borders [25, 26] 0)).bordercfg.toNat % 2 ^ 24)) = true := by decide +kernel
def ceding (z : Cession) (f : Tile → Tile) (ccy : Nat) : State := { onTile (fun t => f { t with run := none, cess := some z }) with ccy := word ccy }
theorem wit_Territory : ({ W with ccy := 1024 }).timers.pres < 1024 / 1024 ∧ ({ W with ccy := 16384 }).timers.phase < 16384 / 16384
    ∧ (let z : Cession := ⟨some (2, 24), 16384, none, none⟩
      ((ceding z id (16384 + 12225)).tile 0).cess = some z ∧ z.start + 12224 < (ceding z id (16384 + 12225)).ccy.toNat ∧ (ceding z id (16384 + 12224)).ccy.toNat ≤ z.start + 12224
      ∧ ((ceding z id 16384).tile 0).run = none ∧ ((ceding z id 16384).tile 0).saved = none ∧ ((ceding z id 16384).tile 0).root = none ∧ (ceding z id 16384).scratchBusy 0 = false
      ∧ ((ceding z id 16384).tile 0).owner = .job 1)
    ∧ (let z : Cession := ⟨none, 16384, some 20000, none⟩
      let s := ceding z (fun t => { t with owner := .transit 1 }) 24096
      (s.tile 0).cess = some z ∧ (s.tile 0).owner = .transit 1 ∧ (s.tile 0).tenure ≠ BitVec.allOnes 32 ∧ 20000 + 4096 ≤ s.ccy.toNat)
    ∧ (W.tile 0).dying = false ∧ (W.tile 0).owner ≠ .dead
    ∧ (let s := { onTile (fun t => { t with dying := true, owner := .unowned, run := none }) with ccy := 16384 }
      (s.tile 0).dying = true ∧ s.timers.phase < s.ccy.toNat / 16384 ∧ (s.tile 0).owner = .unowned) := by decide +kernel
theorem wit_Territory_split : (let s := (onJob (fun j => { j with splits := [⟨5, [30]⟩] })).setTile 30 { owner := .transit 1, tenure := BitVec.allOnes 32 }
      (jobOf s).splits = [⟨5, [30]⟩] ∧ (s.tile 30).tenure = BitVec.allOnes 32)
    ∧ (let s := (onJob (fun j => { j with splits := [⟨5, [30]⟩] })).setTile 30 { owner := .transit 1 }
      (s.tile 30).owner = .transit 1 ∧ (s.tile 30).tenure ≠ BitVec.allOnes 32) := by decide +kernel

/-! Retiring, errors. -/

def gangOf (s : State) : Gang := (s.gang? 1 0).getD G
def storeEntry (va : Nat) (b : Option Nat) : Entry := { key := ⟨0, 1⟩, ord := 0, eff := .store 0x400000 0xFF 7, va := va, slice := 0, set := 0, ovf := false, step := 0, batch := b }
theorem wit_Retiring : (let s := onGang (fun g => { g with phase := .retired, tasks := [] })
      s.job? 1 = some (jobOf s) ∧ (jobOf s).gang? 0 = some (gangOf s) ∧ (gangOf s).phase = .retired ∧ (gangOf s).batches = [] ∧ ((jobOf s).stream 0).opened = true
      ∧ ((jobOf s).stream 0).head = (gangOf s).ticket ∧ (gangOf s).desc.digest = 0 ∧ (gangOf s).morePasses = false ∧ (gangOf s).nodeBatch = none)
    ∧ (let s := onGang (fun g => { g with entries := [storeEntry 0x400000 (some 0)], batches := [⟨0, false⟩], nbatch := 1 })
      (gangOf s).phase = .running ∧ (gangOf s).entries = [storeEntry 0x400000 (some 0)] ∧ (gangOf s).batches = [⟨0, false⟩]
      ∧ (gangOf s).nextDrain (jobOf s) = .entry ⟨0, false⟩ (storeEntry 0x400000 (some 0)))
    ∧ (let s := onGang (fun g => { g with batches := [⟨0, false⟩], nbatch := 1 })
      (gangOf s).phase = .running ∧ (gangOf s).batches = [⟨0, false⟩] ∧ (gangOf s).entries = [] ∧ (gangOf s).desc.digest = 0 ∧ (gangOf s).nodeBatch = none)
    ∧ (let s := onGang (fun g => { g with ticket := 2 })
      ((jobOf s).stream 0).head ≠ (gangOf s).ticket ∧ (gangOf s).unverified = false ∧ (gangOf s).nodeBatch = none) := by decide +kernel
/-- A retired gang in verify mode with its earlier record in the retirement area, or none. -/
def verifying (there reexec : Bool) (dig : Nat) : State :=
  let s := paged (onGang (fun g => { g with phase := .retired, tasks := [], desc := { g.desc with digest := 2 }, reexec := reexec }))
  let a := (jobOf s).retArea + 128
  if there then { s with mem := ((s.mem.writeLE a 6 1).writeLE (a + 7) 1 16).writeLE (a + 48) 16 dig } else s
def record128 (s : State) : List Byte := match s.devRead 1 (s.jobSite 1) ((jobOf s).retArea + (256 * (gangOf s).stream + (gangOf s).ticket % 256) * 128) 128 accLoad with
  | .ok (_, bs) => bs
  | .error _ => []
theorem wit_Retiring_verify : (gangOf (verifying true false 0)).phase = .retired ∧ (gangOf (verifying true false 0)).desc.digest = 2 ∧ (gangOf (verifying true false 0)).verified = false
    ∧ fieldAt (record128 (verifying true false 0)) 0 6 = 1 ∧ fieldAt (record128 (verifying true false 0)) 6 1 = 0 ∧ fieldAt (record128 (verifying true false 0)) 7 1 / 16 % 2 = 1
    ∧ (fieldAt (record128 (verifying true false 0)) 48 16 ≠ (gangOf (verifying true false 0)).gangDigest.toNat
      ∨ fieldAt (record128 (verifying true false 1)) 48 16 ≠ (gangOf (verifying true false 1)).gangDigest.toNat)
    ∧ fieldAt (record128 (verifying true false (gangOf (verifying true false 0)).gangDigest.toNat)) 48 16 = (gangOf (verifying true false 0)).gangDigest.toNat
    ∧ (record128 (verifying false false 0)).length = 128 ∧ fieldAt (record128 (verifying false false 0)) 7 1 / 16 % 2 ≠ 1 ∧ (gangOf (verifying true true 1)).reexec = true := by decide +kernel
def meas5 : Meas := ⟨[1, 2, 3, 4, 5], 0, 0x500000, 0, 1, 2, [], none, [], [], [], [1, 2, 3, 4], false, false, false⟩
def measuring : State := onGang (fun g => { g with tasks := [], meas := some meas5 })
/-- A write of die 1 on its way to site 0, with its number on one sluice. -/
def dieWrite (count : BitVec 32) (at_ : FlitAt) (seq : BitVec 32) : DhWrite :=
  { origin := 1, dest := 0, clock := [0, count, 0, 0, 0], addr := 2 ^ 51, bytes := [5], hops := [⟨0, 0, seq⟩], at_ := at_ }
theorem wit_Retiring_more : (gangOf measuring).morePasses = true ∧ (gangOf measuring).phase = .running ∧ (gangOf measuring).tasks = [] ∧ (gangOf measuring).meas.isSome = true
    ∧ (let s := onTile (fun t => { t with meter := [(1, 5)] })
      s.tiles.filter (fun e => ownedBy e.2.owner 1) = [(0, s.tile 0)] ∧ (s.tile 0).meter = [(1, 5)])
    ∧ (let w := dieWrite 1 .sent 0
      let s := { W with dhq := [w] }
      s.dhq = w :: [] ∧ w.dest = 0 ∧ s.inSeq w = true
      ∧ (∀ i, i < 5 → if i = w.origin then w.clock.getD i 0 = (s.clockOf 0).getD i 0 + 1 else clockAtLeast ((s.clockOf 0).getD i 0) (w.clock.getD i 0) = true))
    ∧ (dieWrite 1 .here 0).at_ = .here
    ∧ (W.inSeq (dieWrite 2 .sent 0) = true ∧ W.dhDue (dieWrite 2 .sent 0) = false)
    ∧ (W.inSeq (dieWrite 2 .sent 1) = false ∧ W.isRepeat (dieWrite 2 .sent 1) = false) ∧ W.isRepeat (dieWrite 1 .sent (2 ^ 32 - 1)) = true
    ∧ W.dhq = [] := by decide +kernel
/-- A CONCURRENT gang with a journal of its one root. -/
def journaled (nore : Bool) : State := 
  onGang (fun g => { g with desc := { g.desc with cls := 2, snapb := 8 }, placed := [0], norestore := nore, journals := [{ root := 0, sp := (W.tile 0).sp, mat := {}, units := [], mregs := [], pc := 0x10000 }] })
theorem wit_ErrorsAndResets : (W.tile 0).run = some R ∧ R.rcd.handler = false ∧ W.gang? R.job R.rcd.gang.toNat = some G ∧ (W.tileErr 0 1).restorable G = false
    ∧ (W.tileErr 0 1).gang? 1 0 = some G ∧ W.restorable G = false ∧ G.live = true ∧ (journaled false).restorable (gangOf (journaled false)) = true
    ∧ (journaled false).standing (gangOf (journaled false)) = true ∧ (let g := { gangOf (journaled false) with placing := 2 }
      (journaled false).restorable g = true ∧ (journaled false).standing g = false)
    ∧ (journaled true).restorable (gangOf (journaled true)) = false ∧ W.polderOfQuad 0 = some (0, pol W) ∧ W.polder? 0 = some (pol W) ∧ (W.tile 0).dying = false
    ∧ (W.tile 1).run = none ∧ (W.tile 1).saved = none ∧ (W.tile 1).root = none ∧ (W.tile 1).dying = false ∧ (W.tile 1).owner ≠ .dead ∧ (W.tile 1).taint = []
    ∧ (W.tile 0).testing = none ∧ W.concurrentOn 0 = none ∧ (109 < 110 ∧ 110 ≤ 110) ∧ (0xC007 < 0xC008 ∧ 0xC008 ≤ 0xC008) ∧ ([5] : List Nat)[0]? = some 5 := by decide +kernel

/-! Functions, host, sluices, mailbox. -/

def fn1 (x : Fn) : State := W.setFn 1 x
def rec64 : List Byte := List.replicate 64 9
theorem wit_RepliesAndInvalidations : (W.fn 1).held = [] ∧ (let x : Fn := { fqbase := 0x1000, fqsize := 16, fqhead := 0, fqtail := 16, held := [rec64] }
      ((fn1 x).fn 1).held = [rec64] ∧ x.fqsize ≠ 0 ∧ x.fqtail - (1 : Word).toNat ≠ x.fqsize ∧ x.fqtail - (0 : Word).toNat = x.fqsize)
    ∧ (W.fn 1).invs.length < 16 ∧ (let x : Fn := { invs := List.replicate 16 ⟨some 1, true, 0, 0⟩ }
      16 ≤ ((fn1 x).fn 1).invs.length ∧ 16 ≤ ((fn1 { x with invHeld := [(0x3010, 1)] }).fn 1).invs.length
      ∧ ((fn1 { x with invHeld := [(0x3010, 1)] }).fn 1).invHeld = (0x3010, 1) :: [])
    ∧ J.unwritten = []
    ∧ (W.job? 1).isSome = true ∧ (let x : Fn := { invs := [⟨some 1, true, 0, 0⟩] }
      ((fn1 x).fn 1).invs = ⟨some 1, true, 0, 0⟩ :: [] ∧ ((fn1 x).fn 1).invHeld = [])
    ∧ (jobOf W).gangs.any (fun e => e.2.live) = true ∧ (jobOf (onJob (fun j => { j with gangs := [] }))).gangs = [] := by decide +kernel
/-- A staged entry whose translation the invalidation drops, and which the tables give no more. -/
theorem wit_RepliesAndInvalidations_waits : (let i : Inval := ⟨some 1, true, 0, 0⟩
      let s := (onGang (fun g => { g with entries := stagedOver.map (fun e => { e with uses := [xl 0x40 false] }) })).setFn 1 { invs := [i] }
      (s.fn 1).invs = i :: [] ∧ (s.fn 1).invHeld = [] ∧ (s.dropXlats (Inval.hits i 1)).usedOld 1 i 1 = true)
    ∧ (W.dropXlats (Inval.hits ⟨some 1, true, 0, 0⟩ 1)).usedOld 1 ⟨some 1, true, 0, 0⟩ 1 = false
    ∧ (W.tile 0).owner = .job 1 ∧ (W.tile 0).l1 = [] := by decide +kernel
def awaiting (t : AwaitFor) : State := { fn1 { awaits := [⟨5, t, 1, 0x400000, 0⟩] } with barges := [B] }
theorem wit_RepliesAndInvalidations_replies : ((awaiting (.task 1 0x4017C0)).fn 1).awaits = ⟨5, .task 1 0x4017C0, 1, 0x400000, 0⟩ :: [] ∧ 5 % 2 ^ 32 = (5 + 2 ^ 32) % 2 ^ 32
    ∧ (awaiting (.task 1 0x4017C0)).job? 1 = some J ∧ J.carry = [] ∧ ((awaiting (.frame 1 0x4017C0 0)).fn 1).awaits = ⟨5, .frame 1 0x4017C0 0, 1, 0x400000, 0⟩ :: []
    ∧ ((awaiting (.barge 0)).fn 1).awaits = ⟨5, .barge 0, 1, 0x400000, 0⟩ :: [] ∧ (awaiting (.barge 0)).barges.find? (fun (b : Barge) => decide (b.id = 0)) = some B
    ∧ (W.fn 1).awaits = [] 
    ∧ (awaiting (.task 1 0x4017C0)).awaits 1 5 1 0x4017C0 = false
    ∧ ({ awaiting (.task 1 0x4017C0) with jobs := [(1, { J with susp := [⟨0x4017C0, .fault 1 5, 1⟩] })] } : State).awaits 1 5 1 0x4017C0 = true := by decide +kernel
theorem wit_RegistersAndHost : W.hostLost = false ∧ W.poweredDown = false ∧ (W.job? 1).isSome = true ∧ (W.job? 2).isNone = true ∧ (W.fn 1).fqtail = (W.fn 1).fqhead ∧ (W.fn 1).held = []
    ∧ (64 : Word).toNat % 2 ^ 17 = 2 ^ 6 ∧ ((fn1 { fqtail := 1 }).fn 1).fqtail ≠ ((fn1 { fqtail := 1 }).fn 1).fqhead ∧ (2 ^ 32 : Word).getLsbD 32 = true
    ∧ (W.fn 1).mbreq = none ∧ W.polder? 0 = some (pol W) ∧ (0x2401 : Word).toNat / 256 % 16 + (0x2401 : Word).toNat / 4096 % 8 ≤ 12
    ∧ (¬ ((0x2901 : Word).toNat / 256 % 16 ≤ 8)) := by decide +kernel
theorem wit_RegistersAndHost_job : (let s := ported { opened := true }
      (match s.devRead 1 (s.jobSite 1) 0x500000 128 accLoad with
      | .ok _ => true
      | .error _ => false) = true
      ∧ (match s.devKey 1 (s.jobSite 1) 0x500000 accStore .write with
      | .ok k => decide (k < 2 ^ 52)
      | .error _ => false) = true ∧ s.pend = [] ∧ s.tiles.all (fun e => e.2.slots.isEmpty) = true ∧ 0x500000 % 65536 + 64 ≤ 65536)
    ∧ ((jobOf (ported { queue := List.replicate 64 ⟨rec64, false⟩, cqueue := List.replicate 64 ⟨rec64, false⟩ })).stream 0).queue.length = 64 ∧ fieldAt (leBytes 64 0) 24 8 = 0
    ∧ ((jobOf (ported { queue := List.replicate 63 ⟨rec64, false⟩ })).stream 0).queue.length < 64 := by decide +kernel
theorem wit_SluicesAndFabric : (W.sluice 5).train = false ∧ (3 : Word).toNat % 8 < 5 ∧ 5 ≤ (5 : Word).toNat % 8 ∧ ((W.setSluice 0 { W.sluice 0 with train := true }).sluice 0).train = true
    ∧ (W.sluice 0).win < (2 ^ 20) / 2 ^ 20 ∧ W.ccy.toNat / 2 ^ 20 ≤ (W.sluice 0).win
    ∧ (let x := { W.sluice 0 with crcerr := 1025, cur := 1 }
      x.crclim < x.crcerr - x.winCrc ∧ 0 < x.cur)
    ∧ W.timers.beat < 12000 / 12000 ∧ W.ccy.toNat / 12000 ≤ W.timers.beat
    ∧ (([0, 1, 2, 3, 4].foldl (fun acc l => NSet.insert l acc) ([] : NSet)).length = 5) ∧ (∀ l ∈ ([0, 1, 2, 3, 4] : NSet), l < 32) := by decide +kernel
theorem wit_SluicesAndFabric_lost : (let s := collecting 1 0 true 1 1 [coll 1]
      s.job? 1 = some (jobOf s) ∧ s.groups.any (fun g => g.table.any (fun e => decide (e.1 = 2)) && g.num == 5) = true ∧ (coll 1).announced = false) := by decide +kernel

/-! The mailbox. -/

/-- A command block of 64 bytes: an opcode, the arguments' block, bytes 32 to 63. -/
def blockOf (op resv len addr replen : Nat) (rest : List Byte) : List Byte :=
  leBytes 2 op ++ (leBytes 2 resv ++ (leBytes 4 len ++ (leBytes 8 addr ++ (leBytes 8 0x3000 ++ (leBytes 4 replen ++ (leBytes 4 0 ++ (rest ++ List.replicate (32 - rest.length) 0)))))))
/-- The machine serving a command of a function. -/
def serving (s : State) (f : Nat) (b args : List Byte) : State :=
  { s with host := (s.host.writeBytes 0x1000 b).writeBytes 0x2000 args, lifecycle := 2 }.setFn f { s.fn f with mbreq := some 0x1000 }
def serves (s : State) (f op len : Nat) (rest args : List Byte) : Bool :=
  let b := blockOf op 0 len (if len = 0 then 0 else 0x2000) 4096 rest
  let u := serving s f b args
  decide (u.mbBlock f = some b) && decide (u.lifecycle = 2) && decide (u.host.readBytes (mbAddr b) (mbLen b) = args) && decide (u.mbGate f b = 0) && u.mbArgs b == some args
theorem wit_Mailbox_gates : (let b := blockOf 15 0 0 0 4096 []
      (serving W 0 b []).mbBlock 0 = some b ∧ 14 < mbOp b ∧ 16 ≤ mbRepLen b)
    ∧ (let b := blockOf 1 0 0 0 4096 []
      (serving W 1 b []).mbBlock 1 = some b ∧ mbOp b < 8)
    ∧ (let b := blockOf 8 1 0 0 4096 []
      (serving W 1 b []).mbBlock 1 = some b ∧ fieldAt b 2 2 ≠ 0 ∧ mbOp b = 8)
    ∧ ([[1, 2], [3]] : List (List Byte)).flatten.length ≤ 4 ∧ ((([[1, 2], [3]] : List (List Byte)).take 1).flatten.length ≤ 2)
    ∧ (2 < (([[1, 2], [3]] : List (List Byte)).take 2).flatten.length) := by decide +kernel
def layout : List Byte := leBytes 1 0 ++ (leBytes 1 1 ++ (leBytes 1 0 ++ (leBytes 1 3 ++ (leBytes 4 0 ++ leBytes 8 0x2401))))
def layout2 : List Byte := leBytes 1 2 ++ (leBytes 1 3 ++ (leBytes 1 0 ++ (leBytes 1 3 ++ (leBytes 4 0 ++ leBytes 8 0x2401))))
theorem wit_Mailbox_phys : serves W 0 1 0 [] [] = true
    ∧ (serves W 0 2 32 (leBytes 2 2) (layout ++ layout2) = true ∧ (polderEntry layout).any (fun p => p.quads.length == 8) = true ∧ (polderEntry layout2).any (fun p => p.quads.length == 8) = true
      ∧ (List.range 16).all (fun q => [layout, layout2].any (fun l => (polderEntry l).any (fun p => p.quads.contains q))) = true)
    ∧ serves W 0 3 0 (leBytes 1 0) [] = true ∧ (W.polder? 0).isSome = true ∧ serves W 0 4 0 (leBytes 4 1200) [] = true ∧ serves W 0 4 0 (leBytes 4 3000) [] = true
    ∧ serves W 0 4 0 (leBytes 4 1199) [] = true := by decide +kernel
def createArgs (jid : Nat) : List Byte := leBytes 2 jid ++ (leBytes 1 0 ++ (leBytes 1 1 ++ (leBytes 2 0 ++ (leBytes 2 576 ++ (leBytes 1 31 ++ (leBytes 7 0 ++ (leBytes 8 0x300000 ++ leBytes 8 0x310000)))))))
theorem wit_Mailbox_jobs : serves W 0 5 0 (createArgs 255) [] = true ∧ (W.job? 255).isNone = true ∧ W.seedable 0 575 = true
    ∧ (let s := { W with polders := [(0, { qx0 := 1, qx1 := 0, qy0 := 0, qy1 := 0 })] }
      serves s 0 5 0 (createArgs 2) [] = true ∧ (List.range 576).all (fun n => !s.seedable 0 n) = true)
    ∧ serves W 0 6 0 (leBytes 2 1) [] = true ∧ J.destroying = false ∧ serves (onJob (fun j => { j with destroying := true })) 0 6 0 (leBytes 2 1) [] = true
    ∧ W.tiles.any (fun e => ownedBy e.2.owner 1) = true
    ∧ (let gone (f : Job → Job) := (onJob (fun j => f { j with destroying := true })).setTile 0 { owner := .unowned }
      let none (j : Job) : Job := { j with gangs := [] }
      serves (gone id) 0 6 0 (leBytes 2 1) [] = true ∧ (gone id).tiles.all (fun e => !ownedBy e.2.owner 1) = true ∧ J.gangs.any (fun e => e.2.live) = true
      ∧ serves (gone none) 0 6 0 (leBytes 2 1) [] = true ∧ (jobOf (gone none)).gangs = [] ∧ (jobOf (gone none)).colls = [] ∧ (jobOf (gone none)).portsEmpty = true
      ∧ (jobOf (gone (fun j => none (j.setStream 0 { queue := [⟨rec64, false⟩] })))).portsEmpty = false)
    ∧ serves W 0 7 72 (leBytes 2 5 ++ (leBytes 2 1 ++ (leBytes 4 0 ++ leBytes 4 1))) (leBytes 8 (2 ^ 24 - 1) ++ List.replicate 64 3) = true := by decide +kernel
def measArgs : List Byte := leBytes 8 0x500000 ++ (leBytes 1 1 ++ (leBytes 7 0 ++ (leBytes 12 1 ++ (leBytes 4 4096 ++ (leBytes 8 0x500800 ++ leBytes 24 0)))))
theorem W_flush : ((W.flushMeter 1).job? 1).isSome = true := by
  rw [State.flushMeter, W_job]
  simp
theorem wit_Mailbox_virtual : serves W 0 8 0 (leBytes 2 1) [] = true ∧ serves W 1 8 0 (leBytes 2 0) [] = true ∧ (W.codeRegions 1 J).isNone = true
    ∧ (let s := ported {}
      serves s 1 8 0 (leBytes 2 0) [] = true ∧ s.codeRegions 1 (jobOf s) = some [⟨0x10000, 64⟩] ∧ (s.codeBytes 1 [⟨0x10000, 64⟩]).isSome = true)
    ∧ serves W 1 9 32 (leBytes 2 0) (List.replicate 32 5) = true
    ∧ (let s := { W with groups := [group5 0] }
      serves s 1 9 32 (leBytes 2 0 ++ (leBytes 2 5 ++ leBytes 1 1)) (List.replicate 32 5) = true
      ∧ (s.group? 5).filter (fun g => decide (g.job = 1)) = some (group5 0))
    ∧ serves W 1 10 32 (leBytes 2 0) (List.replicate 32 5) = true
    ∧ (let s := ported { opened := true, tail := 1, head := 1 }
      serves s 1 11 64 (leBytes 2 0) measArgs = true ∧ measOk measArgs = true ∧ (jobOf s).destroying = false
      ∧ (s.readLaunch 1 (jobOf s) (fieldAt measArgs 0 8) 0 (fun _ => 0)).1 = []
      ∧ (s.readLaunch 1 (jobOf s) (fieldAt measArgs 0 8) 0 (fun _ => 0)).2.any (fun l => l.desc.digest == 0
        && (match s.accept 1 l 0 0 none with
          | (s2, gid, _) => (s2.gang? 1 gid).isSome)) = true) := by decide +kernel
theorem wit_Mailbox_security : serves W 0 12 0 [] [] = true ∧ serves W 0 12 40 [] (List.replicate 40 1) = true ∧ serves W 0 13 64 (leBytes 1 8) (List.replicate 64 1) = true
    ∧ serves W 0 13 64 (leBytes 1 15) (List.replicate 64 1) = true ∧ serves W 0 13 64 (leBytes 1 16) (List.replicate 64 1) = true ∧ serves W 0 14 0 (leBytes 1 0xFF) [] = true
    ∧ serves W 0 14 132 (leBytes 1 3) (List.replicate 132 1) = true := by decide +kernel

/-- A command whose block of arguments does not answer. -/
def unread (f op len : Nat) (rest : List Byte) : Bool :=
  let b := blockOf op 0 len 0x2000 4096 rest
  let u := serving { W with hostHoles := [(0x2000, 64)] } f b []
  decide (u.mbBlock f = some b) && decide (u.mbGate f b = 0) && (u.mbArgs b).isNone
theorem wit_Mailbox_unreadable : unread 0 2 32 (leBytes 2 2) = true ∧ unread 0 7 72 (leBytes 2 5 ++ (leBytes 2 1 ++ (leBytes 4 0 ++ leBytes 4 1))) = true
    ∧ unread 1 9 32 (leBytes 2 0) = true ∧ unread 0 10 32 (leBytes 2 1) = true ∧ unread 1 11 64 (leBytes 2 0) = true ∧ unread 0 12 40 [] = true
    ∧ unread 0 13 64 (leBytes 1 8) = true ∧ unread 0 14 132 (leBytes 1 3) = true := by decide +kernel
theorem wit_Mailbox_forms : serves W 0 2 0 (leBytes 2 0) [] = true
    ∧ (serves W 0 2 16 (leBytes 2 1) (List.replicate 16 255) = true ∧ (polderEntry (List.replicate 16 255)).isNone = true)
    ∧ (serves W 0 2 32 (leBytes 2 2) (layout ++ layout) = true ∧ [layout, layout].all (fun l => (polderEntry l).any (fun p => !p.quads.contains 15)) = true)
    ∧ (serves W 0 5 0 (createArgs 0) [] = true ∧ fieldAt (blockOf 5 0 0 0 4096 (createArgs 0)) 32 2 = 0)
    ∧ serves W 0 7 0 (leBytes 2 5) [] = true
    ∧ (let big := leBytes 8 (2 ^ 24) ++ List.replicate 64 3
      serves W 0 7 72 (leBytes 2 5 ++ (leBytes 2 1 ++ (leBytes 4 0 ++ leBytes 4 1))) big = true ∧ fieldAt big 0 8 = 2 ^ 24)
    ∧ serves W 0 8 0 (leBytes 2 1 ++ leBytes 1 1) [] = true ∧ serves W 1 9 32 (leBytes 4 0 ++ leBytes 1 2) (List.replicate 32 5) = true
    ∧ serves W 0 10 8 (leBytes 2 1) (leBytes 8 1) = true ∧ serves W 1 11 8 [] (leBytes 8 1) = true
    ∧ ([8, 9, 10, 11].all (fun op => serves W 0 op 0 (leBytes 2 9) []) = true ∧ (W.job? 9).isNone = true)
    ∧ (serves W 1 11 64 [] (List.replicate 64 0) = true ∧ measOk (List.replicate 64 0) = false)
    ∧ (serves W 1 11 64 [] measArgs = true ∧ (W.readLaunch 1 J (fieldAt measArgs 0 8) 0 (fun _ => 0)).1 ≠ []) := by decide +kernel
/-- The machine in a life-cycle state, serving a LIFECYCLE command. -/
def cycles (state target len : Nat) : Bool :=
  let b := blockOf 14 0 len (if len = 0 then 0 else 0x2000) 4096 (leBytes 1 target)
  let u : State := { serving W 0 b (List.replicate len 1) with lifecycle := state }
  decide (u.mbBlock 0 = some b) && decide (u.mbGate 0 b = 0) && (u.mbArgs b).isSome
theorem wit_Mailbox_cycle : serves W 0 12 40 (leBytes 1 1) (List.replicate 40 1) = true ∧ serves W 0 13 64 (leBytes 1 7) (List.replicate 64 1) = true
    ∧ cycles 2 0xFF 132 = true ∧ cycles 2 4 132 = true ∧ cycles 2 2 132 = true ∧ lcNext 2 2 = false ∧ cycles 3 0 132 = true
    ∧ cycles 0 1 132 = true ∧ cycles 1 2 265 = true := by decide +kernel

/-! The machine as a whole. -/

theorem wit_DecodeEncode : Instr.wf (.iadd ⟨true, 7⟩ .s64 false 63 63 (.imm (BitVec.allOnes 40))) = true ∧ Instr.isEvent (.nop on) = false
    ∧ decode 0x010000000000000000000000 = some (.nop on) := by decide +kernel
theorem wit_MemoryCanonical : State.reset.mem.wf = true ∧ State.reset.host.wf = true ∧ (paged W).mem.wf = true ∧ (match step W with
    | .next _ => true
    | _ => false) = true := by decide +kernel
theorem wit_RegisterFile : (7 : FReg) ≠ 0 ∧ (1 : WReg) ≠ 0 := by decide
theorem wit_PredicateOff : W.Ready R ∧ Instr.wf (.trap off 0) = true ∧ Instr.isEvent (.trap off 0) = false ∧ (W.tile W.cur).predWord (Instr.toRaw (.trap off 0)).pred = 0
    ∧ (W.tile W.cur).msg = none ∧ (W.tile W.cur).swap = none ∧ R.verdict = none ∧ R.swapped = none :=
  ⟨W_ready, by decide +kernel⟩
theorem wit_ScalarFrame : W.Ready R ∧ Instr.wf (.icmp on .s64 .lt 7 1 (.imm 0)) = true ∧ (Instr.toRaw (.icmp on .s64 .lt 7 1 (.imm 0))).maj = 0x12 ∧ W.latched = false
    ∧ (onTile (fun t => t.setCtl cLATCH 5)).Ready R ∧ (onTile (fun t => t.setCtl cLATCH 5)).latched = true := 
  ⟨W_ready, by decide +kernel, by decide +kernel, by decide +kernel, ready_of (by decide +kernel), by decide +kernel⟩
theorem wit_StepRunsDecoded : W.inputs = .run 0 :: [] ∧ (let s0 : State := { W with inputs := [], cur := 0 }.pass
      s0.mayIssue (s0.tile 0) = true ∧ (s0.tile 0).run = some R ∧ R.pend = none ∧ (match s0.fetchCheck 0 R R.pc R.entry with
        | .ok (_, w, lw) => lineClean lw && decide (decode w = some (.nop on))
        | .error _ => false) = true)
    ∧ (let s := State.reset.withFetchWord 96 0
      let s0 : State := { s with inputs := [], cur := 0 }.pass
      (match s0.fetchCheck 0 R R.pc R.entry with
        | .ok (_, w, lw) => lineClean lw && decide (decode w = none)
        | .error _ => false) = true)
    ∧ (R.sup = false ∧ R.pc.toNat % 64 = 12 * 0 ∧ R.pc.toNat < 2 ^ 60 ∧ W.codeOk R (R.pc.toNat / 64 * 64) = true) := by decide +kernel
theorem wit_StepRunsDecoded_line : (match W.translate 0 R.job R.pc.toNat accFetch .fetch with
      | .ok x =>
        let s1 := W.fillXlat 0 R.job R.pc.toNat .fetch x
        let key := x.key (W.siteOf 0) (R.pc.toNat / 64 * 64) / 64
        let l := BitVec.ofNat 512 (leVal (s1.homeRead (key * 64) 64).2)
        (findCLine key (s1.tile 0).fbuf).isNone && (findCLine key (s1.tile 0).icache).isNone && !s1.memBad (key * 64) 64 && lparOk l && sparOk l 0
      | .error _ => false) = true ∧ (State.reset).inputs = [] ∧ State.reset.dueEvent = none ∧ State.reset.nextTile = none
    ∧ (let s := { W with inputs := [] }
      s.dueEvent = none ∧ s.nextTile = some 0) ∧ (let s := { W with inputs := [], ccy := 1024 }
      s.dueEvent = some .presUpdate) ∧ W.poweredDown = false := by decide +kernel

/-- A tile's turn carries on an mcmd that waits. -/
theorem wit_StepRunsDecoded_begun : (let s := { begunTile (fun t => { t with msg := some ⟨0, 0, 0, 0, false⟩ }) (.mcmd on 10 1) with inputs := [.run 0] }
      let s0 : State := { s with inputs := [], cur := 0 }.pass
      s.inputs = .run 0 :: [] ∧ s0.mayIssue (s0.tile 0) = true ∧ (s0.tile 0).run = some { R with begun := some (.mcmd on 10 1) } ∧ (s0.tile 0).msg.isSome = true) := by
  decide +kernel

/-! Decoding: a word of every instruction, laid out by hand from the tables of its entry, PN 1 and PF 3 in each. -/

def q : Pred := ⟨true, 3⟩
theorem test_decode_control : decode 0x0100B0000000000000000000 = some (.nop q)
    ∧ decode 0x0101B0000000000000000000 = some (.ifence q)
    ∧ decode 0x0301B0000000000000000000 = some (.eret q)
    ∧ decode 0x0302B0000000000000000000 = some (.uret q)
    ∧ decode 0x0303B0000000000000000000 = some (.done q)
    ∧ decode 0x3901B0000000000000000000 = some (.gdone q)
    ∧ decode 0x0200B000000008FFFFFFFFFE = some (.br q 4 (BitVec.ofInt 40 (-2)))
    ∧ decode 0x0201BF800000060000000005 = some (.call q 62 3 5)
    ∧ decode 0x0204B009000004FFFFFFFFFF = some (.loop q 9 2 (BitVec.ofInt 40 (-1)))
    ∧ decode 0x0202BF890000100000000000 = some (.jr q (some 62) 9)
    ∧ decode 0x0202B0090000000000000000 = some (.jr q none 9)
    ∧ decode 0x0203B03D0000000000000000 = some (.ret q 61)
    ∧ decode 0x0300B000000000000000ABCD = some (.trap q 0xABCD)
    ∧ decode 0x0304B00000000000000002B0 = some (.yield q 688)
    ∧ decode 0x0400B1800000000000000123 = some (.movc q 6 0x123)
    ∧ decode 0x0401B0060000000000000123 = some (.mtc q 6 0x123)
    ∧ decode 0x0402B1870000000000000000 = some (.wpsw q 6 7)
    ∧ decode 0x0403B0000000000000000100 = some (.prel q 256)
    ∧ decode 0x0500B1800000000000000008 = some (.rdid q 6 8)
    ∧ decode 0x0501B1800000000000000000 = some (.rdccy q 6)
    ∧ decode 0x0502B1870000000000000001 = some (.rdterr q 6 7 true) := by decide +kernel
theorem test_decode_scalar : decode 0x1000B14A8400800000000000 = some (.iadd q .s8 true 5 10 (.reg 33))
    ∧ decode 0x1001B14A8403000000000000 = some (.isub q .n16 false 5 10 (.reg 33))
    ∧ decode 0x1002B14A8404800000000000 = some (.imul q .s32 true 5 10 (.reg 33))
    ∧ decode 0x1005B14A8406800000000000 = some (.idiv q .s64 true 5 10 (.reg 33))
    ∧ decode 0x1003B14A000201FFFFFFFFFD = some (.imulh q .s16 5 10 (.imm (BitVec.ofInt 40 (-3))))
    ∧ decode 0x1007B14A000001FFFFFFFFFD = some (.irem q .s8 5 10 (.imm (BitVec.ofInt 40 (-3))))
    ∧ decode 0x1009B14A000401FFFFFFFFFD = some (.imin q .s32 5 10 (.imm (BitVec.ofInt 40 (-3))))
    ∧ decode 0x100AB14A000601FFFFFFFFFD = some (.imax q .s64 5 10 (.imm (BitVec.ofInt 40 (-3))))
    ∧ decode 0x1004B14A000101FFFFFFFFFD = some (.imulhn q .n8 5 10 (.imm (BitVec.ofInt 40 (-3))))
    ∧ decode 0x1006B14A000301FFFFFFFFFD = some (.idivn q .n16 5 10 (.imm (BitVec.ofInt 40 (-3))))
    ∧ decode 0x1008B14A000501FFFFFFFFFD = some (.iremn q .n32 5 10 (.imm (BitVec.ofInt 40 (-3))))
    ∧ decode 0x100BB14A000701FFFFFFFFFD = some (.iminn q .n64 5 10 (.imm (BitVec.ofInt 40 (-3))))
    ∧ decode 0x100CB14A000101FFFFFFFFFD = some (.imaxn q .n8 5 10 (.imm (BitVec.ofInt 40 (-3))))
    ∧ decode 0x100DB14A0002800000000000 = some (.iabs q .s16 true 5 10)
    ∧ decode 0x100EB14A0002800000000000 = some (.ineg q .s16 true 5 10)
    ∧ decode 0x1100B14A8400000000000000 = some (.iand q 5 10 (.reg 33))
    ∧ decode 0x1101B14A8400000000000000 = some (.ior q 5 10 (.reg 33))
    ∧ decode 0x1102B14A8400000000000000 = some (.ixor q 5 10 (.reg 33))
    ∧ decode 0x1103B14A8400000000000000 = some (.iandn q 5 10 (.reg 33))
    ∧ decode 0x1104B14A8400000000000000 = some (.ishl q 5 10 (.reg 33))
    ∧ decode 0x1105B14A8400000000000000 = some (.ishr q 5 10 (.reg 33))
    ∧ decode 0x1106B14A8400000000000000 = some (.isar q 5 10 (.reg 33))
    ∧ decode 0x1107B14A8400000000000000 = some (.irot q 5 10 (.reg 33))
    ∧ decode 0x1108B14A0000000000000000 = some (.clz q 5 10) := by decide +kernel
theorem test_decode_scalar1 : decode 0x1109B14A0000000000000000 = some (.ctz q 5 10)
    ∧ decode 0x110AB14A0000000000000000 = some (.popc q 5 10)
    ∧ decode 0x1200B14A8405400000000000 = some (.icmp q .n32 .gt 5 10 (.reg 33))
    ∧ decode 0x1201B14A0060010000000007 = some (.isel q 5 10 (.imm 7) 6)
    ∧ decode 0x1300B14A0000000000000628 = some (.ext q 5 10 40 24)
    ∧ decode 0x1301B14A0000000000000628 = some (.extn q 5 10 40 24)
    ∧ decode 0x1302B14A0000000000000628 = some (.ins q 5 10 40 24)
    ∧ decode 0x1400B1408123456789ABCDEF = some (.li q 5 0x8123456789ABCDEF)
    ∧ decode 0x1401B14A8400300000000000 = some (.lea q false 3 5 10 (.reg 33))
    ∧ decode 0x1401B1400000810000000060 = some (.lea q true 0 5 0 (.imm 96)) := by decide +kernel
theorem test_decode_memory : decode 0x2000B14A0003190000000008 = some (.ld q .n16 (.acq .package) 5 10 (.imm 8))
    ∧ decode 0x2100B00A84662A0000000000 = some (.st q .s64 (.rel .system) 10 (.reg 33) 6)
    ∧ decode 0x2200B14A0001010000000008 = some (.vld q .n8 .plain 5 10 (.imm 8))
    ∧ decode 0x2201B00A0065230000000008 = some (.vst q .n32 (.rel .tile) 10 (.imm 8) 6)
    ∧ decode 0x2202B14A8405000000000000 = some (.vlds q .n32 5 10 (.reg 33))
    ∧ decode 0x2203B00A8462000000000000 = some (.vsts q .s16 10 (.reg 33) 6)
    ∧ decode 0x2300B14A7C04000000000000 = some (.vldg q .s32 5 10 31)
    ∧ decode 0x2301B00A7C67000000000000 = some (.vstx q .n64 10 31 6)
    ∧ decode 0x2400B14A84F6000000000000 = some (.ldrc q .s64 15 5 10 (.reg 33))
    ∧ decode 0x2401B14A8401000000000000 = some (.ldc q .n8 5 10 (.reg 33))
    ∧ decode 0x2500B78A8460000000000001 = some (.sbind q true 30 10 33 6)
    ∧ decode 0x2501B7C00000000000000000 = some (.sunbind q 31)
    ∧ decode 0x2600B00A0000B10000000040 = some (.cmaint q .cinv .hl2 10 (.imm 64))
    ∧ decode 0x2601B00A8400000000000000 = some (.icinv q 10 (.reg 33))
    ∧ decode 0x2700B0000000340000000000 = some (.fence q (.acqRel .gang)) := by decide +kernel
theorem test_decode_atomics : decode 0x3000B00A0069260000000005 = some (.amo q .max .f16 (.rel .die) 10 6)
    ∧ decode 0x3100B14A8465340000000007 = some (.amof q .cas .n32 (.acqRel .gang) 5 10 33 6)
    ∧ decode 0x3100B14A0061000000000006 = some (.amof q .swap .n8 .plain 5 10 0 6)
    ∧ decode 0x3200B00A007A400000000008 = some (.red q .add .bf16 .rna 10 (.v 7))
    ∧ decode 0x3200B00A0217000000000005 = some (.red q .xor .n64 .rne 10 (.w 33))
    ∧ decode 0x3300B0000000000000000007 = some (.arrive q 7)
    ∧ decode 0x3301B0000000000000000007 = some (.wait q 7)
    ∧ decode 0x3302B0000000000000000007 = some (.sstep q 7)
    ∧ decode 0x3400B0000000000000000001 = some (.tcommit q true)
    ∧ decode 0x3401B1400000000000000019 = some (.trd q 5 9 true)
    ∧ decode 0x3402B1400000000000000001 = some (.thead q 5 true) := by decide +kernel
theorem test_decode_tasks : decode 0x3800B14A8400000006B01234 = some (.fork q 5 10 33 true 688 0x1234)
    ∧ decode 0x3802B14A8400000000010002 = some (.spawn q 5 10 33 false 1 2)
    ∧ decode 0x3801B0000000000000000003 = some (.join q 3)
    ∧ decode 0x3803B00A0000000000000003 = some (.suspend q 10 3)
    ∧ decode 0x3900B00A8460100000000009 = some (.launch q true 10 33 6 9) := by decide +kernel
theorem test_decode_vector : decode 0x4000B14A7C99D00000000000 = some (.vadd q .f16 (.sr 9) true 5 10 (.reg 31))
    ∧ decode 0x4001B14A7C99D00000000000 = some (.vsub q .f16 (.sr 9) true 5 10 (.reg 31))
    ∧ decode 0x4002B14A7C99D00000000000 = some (.vmul q .f16 (.sr 9) true 5 10 (.reg 31))
    ∧ decode 0x4000B14A0000810000000004 = some (.vadd q .s8 .rne true 5 10 (.imm 4))
    ∧ decode 0x4003B14A7C0A000000000000 = some (.vmin q .bf16 5 10 (.reg 31))
    ∧ decode 0x4004B14A7C0A000000000000 = some (.vmax q .bf16 5 10 (.reg 31))
    ∧ decode 0x4005B14A0000800000000000 = some (.vabs q .s8 true 5 10)
    ∧ decode 0x4006B14A0008000000000000 = some (.vneg q .f32 false 5 10)
    ∧ decode 0x4100B14A0008310000000004 = some (.vfma q .f32 .rup false 5 10 (.imm 4))
    ∧ decode 0x4101B14A0008310000000004 = some (.vfms q .f32 .rup false 5 10 (.imm 4))
    ∧ decode 0x4102B14A0008310000000004 = some (.vfnma q .f32 .rup false 5 10 (.imm 4))
    ∧ decode 0x4200B14A7C03000000000000 = some (.vand q .n16 5 10 (.reg 31))
    ∧ decode 0x4201B14A7C03000000000000 = some (.vor q .n16 5 10 (.reg 31))
    ∧ decode 0x4202B14A7C03000000000000 = some (.vxor q .n16 5 10 (.reg 31))
    ∧ decode 0x4203B14A7C03000000000000 = some (.vshl q .n16 5 10 (.reg 31))
    ∧ decode 0x4204B14A7C03000000000000 = some (.vshr q .n16 5 10 (.reg 31))
    ∧ decode 0x4205B14A7C03000000000000 = some (.vsar q .n16 5 10 (.reg 31))
    ∧ decode 0x4300B14A7C0C600000000000 = some (.vcmp q .e5m2 .uo 5 10 (.reg 31))
    ∧ decode 0x4301B14A7C6E000000000000 = some (.vsel q .s4 5 10 (.reg 31) 6)
    ∧ decode 0x4400B14A000890000000007E = some (.vcvt q .f32 .s4 7 .rtz true 5 10)
    ∧ decode 0x4401B14A840F20000000003A = some (.vquant q .e2m1 .bf16 3 .rdn false 5 10 33)
    ∧ decode 0x4402B14A840900000000001D = some (.vdq q .f16 .ss8 1 .rne false 5 10 33)
    ∧ decode 0x4500B14A000B900000000000 = some (.vredsum q .e4m3 .rtz true 5 10)
    ∧ decode 0x4501B14A0007000000000000 = some (.vredmax q .n64 5 10) := by decide +kernel
theorem test_decode_vector1 : decode 0x4502B14A0007000000000000 = some (.vredmin q .n64 5 10)
    ∧ decode 0x4503B14A000F000000000000 = some (.vamax q .e2m1 5 10)
    ∧ decode 0x4504B14A7C0E800000000000 = some (.vdot q .s4 .rne true 5 10 31)
    ∧ decode 0x4600B14A7C01000000000000 = some (.vperm q .n8 5 10 31)
    ∧ decode 0x4601B14A0004000000000000 = some (.vbcast q .s32 5 10)
    ∧ decode 0x4602B14A7C01000000000080 = some (.vslide q .n8 128 5 10 31)
    ∧ decode 0x4603B14A7C03000000000001 = some (.vzip q .n16 true 5 10 31)
    ∧ decode 0x4604B14A7C03000000000001 = some (.vunzip q .n16 true 5 10 31)
    ∧ decode 0x4700B14A000501000000001F = some (.vins q .n32 5 10 (.imm 31))
    ∧ decode 0x4701B14A8405000000000000 = some (.vext q .n32 5 10 (.reg 33))
    ∧ decode 0x4800B14A001AD00000000000 = some (.vrecip q .bf16 (.sr 1) true 5 10)
    ∧ decode 0x4801B14A001AD00000000000 = some (.vrsqrt q .bf16 (.sr 1) true 5 10)
    ∧ decode 0x4802B14A001AD00000000000 = some (.vexp2 q .bf16 (.sr 1) true 5 10)
    ∧ decode 0x4803B14A001AD00000000000 = some (.vlog2 q .bf16 (.sr 1) true 5 10)
    ∧ decode 0x4900B1461C00000000000000 = some (.fand q 5 6 7)
    ∧ decode 0x4901B1461C00000000000000 = some (.for_ q 5 6 7)
    ∧ decode 0x4902B1461C00000000000000 = some (.fxor q 5 6 7)
    ∧ decode 0x4903B1460000000000000000 = some (.fnot q 5 6)
    ∧ decode 0x4904B8460002000000000000 = some (.fpop q .s16 33 6)
    ∧ decode 0x4905B8460002000000000000 = some (.ffirst q .s16 33 6) := by decide +kernel
theorem test_decode_lazy : decode 0x6000B14A0000000000000000 = some (.ydraw q 5 10)
    ∧ decode 0x6001B14A0000000000000000 = some (.yset q 5 10)
    ∧ decode 0x6002B1460000000000000000 = some (.ycopy q 5 6)
    ∧ decode 0x6003B8460008400000000000 = some (.yrd q true .rna 33 6)
    ∧ decode 0x6003B8460007000000000000 = some (.yrd q false .rne 33 6)
    ∧ decode 0x6100B1468408000000000000 = some (.ycmp q true 5 6 33)
    ∧ decode 0x6101B1468620000000000000 = some (.ycmpq q 5 6 33 34)
    ∧ decode 0x6102B1461C00000000000000 = some (.ycmpy q 5 6 7)
    ∧ decode 0x6200B8468A30000000000000 = some (.ycat q 33 6 34 35)
    ∧ decode 0x6300B1400000000000000004 = some (.yext q 5 4)
    ∧ decode 0x6301B7CA0000000000000000 = some (.ydig q 31 10) := by decide +kernel
theorem test_decode_barge : decode 0x6800B87C000000000000000F = some (.bgreq q 33 60 15)
    ∧ decode 0x6801B87C000000000000000F = some (.bgtry q 33 60 15)
    ∧ decode 0x6900B000000000000000001F = some (.bgsleep q true 15)
    ∧ decode 0x6901B84000000000000023FF = some (.bgwm q 33 575 15) := by decide +kernel
theorem test_decode_matrix : decode 0x7000B1C0000F000000020080 = some (.mcfg q .e2m1 7 128 512)
    ∧ decode 0x7100B14A8400000000000000 = some (.tld q 5 10 (.reg 33))
    ∧ decode 0x7101B14A8400000000000000 = some (.tldt q 5 10 (.reg 33))
    ∧ decode 0x7102B14A0000010000000100 = some (.tst q 5 10 (.imm 256))
    ∧ decode 0x7200B1400000000000000000 = some (.tzero q 5)
    ∧ decode 0x7300B0451898D00000000403 = some (.mmac q (.sr 9) true 3 4 1 5 6)
    ∧ decode 0x7301B0451898D00000000403 = some (.mmacs q (.sr 9) true 3 4 1 5 6)
    ∧ decode 0x7400B0401878900000050403 = some (.mscale q .rtz true 3 4 5 1 0 6 7)
    ∧ decode 0x7500B7C100080000000001FF = some (.mrd q 31 1 127 3)
    ∧ decode 0x7501B05F00080000000001FF = some (.mwr q 1 31 127 3)
    ∧ decode 0x7502B0400000000000000000 = some (.mclr q 1)
    ∧ decode 0x7600B00A7C00000000000000 = some (.mcmd q 10 31)
    ∧ decode 0x7601B14A000000000000002A = some (.mcap q 5 10 0x2A)
    ∧ decode 0x7700B00A8620000000010000 = some (.mswap q 10 33 34 65536)
    ∧ decode 0x7800B0000000000000000002 = some (.mwait q 2) := by decide +kernel

/-! Terms outside the limits of their entries are refused, one for each limit. -/

theorem test_wf_scalar : Instr.wf (.yield q 689) = false ∧ Instr.wf (.prel q 257) = false ∧ Instr.wf (.rdid q 1 9) = false ∧ Instr.wf (.iadd q .f32 false 1 2 (.reg 3)) = false
    ∧ Instr.wf (.imulh q .n8 1 2 (.reg 3)) = false ∧ Instr.wf (.imulhn q .s8 1 2 (.reg 3)) = false ∧ Instr.wf (.icmp q .s8 .uo 1 2 (.reg 3)) = false
    ∧ Instr.wf (.ext q 1 2 0 0) = false ∧ Instr.wf (.ext q 1 2 0 65) = false ∧ Instr.wf (.ins q 1 2 63 2) = false ∧ Instr.wf (.lea q true 0 1 2 (.reg 3)) = false := by decide +kernel
theorem test_wf_memory : Instr.wf (.ld q .f32 .plain 1 2 (.reg 3)) = false ∧ Instr.wf (.ld q .s8 (.rel .gang) 1 2 (.reg 3)) = false ∧ Instr.wf (.st q .s8 (.acq .gang) 1 (.reg 2) 3) = false
    ∧ Instr.wf (.ldrc q .s8 0 1 2 (.reg 3)) = false ∧ Instr.wf (.vlds q .e4m3 1 2 (.reg 3)) = false ∧ Instr.wf (.fence q .plain) = false
    ∧ Instr.wf (.amo q .and .f32 .plain 1 2) = false ∧ Instr.wf (.amo q .cas .s8 .plain 1 2) = false ∧ Instr.wf (.amo q .add .s8 (.acq .gang) 1 2) = false
    ∧ Instr.wf (.amof q .add .s8 .plain 1 2 3 4) = false ∧ Instr.wf (.red q .add .f32 (.sr 3) 1 (.w 2)) = false ∧ Instr.wf (.red q .add .s8 .rtz 1 (.w 2)) = false
    ∧ Instr.wf (.red q .and .f32 .rne 1 (.w 2)) = false ∧ Instr.wf (.red q .add .e4m3 .rne 1 (.w 2)) = false := by decide +kernel
theorem test_wf_vector : Instr.wf (.vadd q .e4m3 .rne false 1 2 (.reg 3)) = false ∧ Instr.wf (.vadd q .s8 .rtz false 1 2 (.reg 3)) = false ∧ Instr.wf (.vadd q .f32 (.sr 0) false 1 2 (.reg 3)) = false
    ∧ Instr.wf (.vabs q .n8 false 1 2) = false ∧ Instr.wf (.vabs q .f32 true 1 2) = false ∧ Instr.wf (.vfma q .s8 .rne false 1 2 (.reg 3)) = false ∧ Instr.wf (.vand q .f32 1 2 (.reg 3)) = false
    ∧ Instr.wf (.vcmp q .s8 .uo 1 2 (.reg 3)) = false ∧ Instr.wf (.vcmp q .ss8 .eq 1 2 (.reg 3)) = false ∧ Instr.wf (.vcvt q .f32 .e4m3 4 .rne false 1 2) = false
    ∧ Instr.wf (.vcvt q .ss8 .f32 0 (.sr 3) false 1 2) = false ∧ Instr.wf (.vquant q .f32 .f32 0 .rne false 1 2 3) = false ∧ Instr.wf (.vdq q .f32 .n16 0 .rne false 1 2 3) = false
    ∧ Instr.wf (.vredsum q .ss8 .rne false 1 2) = false ∧ Instr.wf (.vamax q .n8 1 2) = false ∧ Instr.wf (.vdot q .s64 .rne false 1 2 3) = false ∧ Instr.wf (.vslide q .s16 65 1 2 3) = false
    ∧ Instr.wf (.vext q .s16 1 2 (.imm 64)) = false ∧ Instr.wf (.vrecip q .s8 .rne false 1 2) = false ∧ Instr.wf (.fpop q .f32 1 2) = false := by decide +kernel
theorem test_wf_units : Instr.wf (.yrd q true (.sr 3) 1 2) = false ∧ Instr.wf (.yrd q false .rtz 1 2) = false ∧ Instr.wf (.yext q 1 0) = false ∧ Instr.wf (.yext q 1 5) = false
    ∧ Instr.wf (.bgreq q 1 61 0) = false ∧ Instr.wf (.mcfg q .f32 1 129 4) = false ∧ Instr.wf (.mcfg q .f32 1 4 65) = false ∧ Instr.wf (.mcfg q .f32 1 0 4) = false
    ∧ Instr.wf (.mmac q (.sr 0) false 0 0 0 1 2) = false ∧ Instr.wf (.mscale q (.sr 3) false 0 0 0 0 1 2 3) = false ∧ Instr.wf (.mwait q 3) = false
    ∧ Instr.wf (.takeRecord 576) = false ∧ Instr.wf (.portLaunch 1 16) = false ∧ Instr.wf (.flitCrcFail ⟨6, 0, 0, 0⟩) = false ∧ Instr.wf (.failedLockkeeper 16) = false := by decide +kernel
/-- R102: what no term has, its word is no instruction: a reserved group, a register beyond its file, IB where none is taken, a type, a mode, a scope, a slot. -/
theorem test_no_instruction : decode 0x000000000000000000000000 = none ∧ decode 0x060000000000000000000000 = none ∧ decode 0x101000000000000000000000 = none
    ∧ decode 0x400008000000000900000000 = none ∧ decode 0x110800000000010000000000 = none ∧ decode 0x100000000008000000000000 = none ∧ decode 0x400000000008600000000000 = none
    ∧ decode 0x270000000000300000000000 = none ∧ decode 0x270000000000 = none ∧ decode 0x0200000000000A0000000000 = none ∧ decode 0x010000000000000000000001 = none := by decide +kernel

/-! Results the manual works out. -/

/-- One instruction from word w on the machine with tile 0 prepared; the tile after it. -/
def after (w : Nat) (f : Tile → Tile) : Tile :=
  let s := State.reset.withFetchWord 96 w
  match step (s.setTile 0 (f (s.tile 0))) with
  | .next u => u.tile 0
  | _ => {}
def word96 (i : Instr) : Nat := (encode i).toNat
def runs (i : Instr) (f : Tile → Tile) : Tile := after (word96 i) f
def ws (xs : List (Nat × Nat)) (t : Tile) : Tile := xs.foldl (fun t x => t.setW (Fin.ofNat 64 x.1) (word x.2)) t
def vs (k : Nat) (bits : Nat) (xs : List Nat) (t : Tile) : Tile := t.setV (Fin.ofNat 32 k) (BitVec.ofNat 1024 (vOfElems bits (xs ++ List.replicate (1024 / bits - xs.length) 0)))
/-- The word of R86: iadd w5, w5, 1. -/
theorem test_iadd : (after 0x100001450006010000000001 (ws [(5, 2 ^ 64 - 1)])).w 5 = 0 ∧ ((after 0x100001450006010000000001 id).run.map (·.pc)) = some 0x1000C := by decide +kernel
/-- Chapter 7: 127 + 1 in S8 saturates to 127 with SAT, and wraps to -128 without. -/
theorem test_iadd_sat : (runs (.iadd on .s8 true 1 2 (.imm 1)) (ws [(2, 127)])).w 1 = 127 ∧ ((runs (.iadd on .s8 true 1 2 (.imm 1)) (ws [(2, 127)])).ctl cFPFLAGS) ≠ 0
    ∧ (runs (.iadd on .s8 false 1 2 (.imm 1)) (ws [(2, 127)])).w 1 = 0xFFFFFFFFFFFFFF80 := by decide +kernel
/-- Chapter 7: idiv.s8 of -128 by -1; irem.s32 of -7 by 2; iremn.n64 of 7 by 0. -/
theorem test_division : (runs (.idiv on .s8 false 1 2 (.reg 3)) (ws [(2, 0x80), (3, 0xFF)])).w 1 = 0xFFFFFFFFFFFFFF80 ∧ (runs (.idiv on .s8 true 1 2 (.reg 3)) (ws [(2, 0x80), (3, 0xFF)])).w 1 = 0x7F
    ∧ (runs (.irem on .s32 1 2 (.imm 2)) (ws [(2, 2 ^ 64 - 7)])).w 1 = 0xFFFFFFFFFFFFFFFF ∧ (runs (.iremn on .n64 1 2 (.imm 0)) (ws [(2, 7)])).w 1 = 7
    ∧ ((runs (.iremn on .n64 1 2 (.imm 0)) (ws [(2, 7)])).ctl cFPFLAGS).toNat = (fDZ).toNat := by decide +kernel
/-- R90's transfer: PC 0x1_0058, DISP -1, SLOT 3. -/
theorem test_target : targetJ 0x10058 3 (BitVec.ofInt 40 (-1)) = 0x10024 := by decide +kernel
/-- loop at 2 goes on with 1 and transfers; at 1 it ends. -/
theorem test_loop : (runs (.loop on 3 0 0) (ws [(3, 2)])).w 3 = 1 ∧ (runs (.loop on 3 0 0) (ws [(3, 2)])).run.map (·.pc) = some 0x10000
    ∧ (runs (.loop on 3 0 0) (ws [(3, 1)])).run.map (·.pc) = some 0x1000C := by decide +kernel
def vectored (t : Tile) : Tile := t.setCtl cTRAPVEC 0x10000
/-- call links the next slot; jr without LINK writes nothing; a transfer to a slot that is no target traps ILLEGAL_TARGET with the target. -/
theorem test_call : (runs (.call on 62 0 0) id).w 62 = 0x1000C ∧ ((runs (.br on 1 0) vectored).ctl cTCAUSE).toNat % 256 = 3 ∧ (runs (.br on 1 0) vectored).ctl cTVAL = 0x1000C := by decide +kernel
/-- trap and ret: TPC, TCAUSE and TVAL of a trap with CODE 5; ret goes where its register says. -/
theorem test_trap : (runs (.trap on 5) vectored).ctl cTPC = 0x1000C ∧ (runs (.trap on 5) vectored).ctl cTVAL = 5 ∧ (runs (.trap on 5) vectored).run.map (·.pc) = some 0x10000 ∧ (runs (.ret on 9) (ws [(9, 0x10000)])).run.map (·.pc) = some 0x10000 := by decide +kernel
theorem test_logic : (runs (.iandn on 1 2 (.reg 3)) (ws [(2, 0b1100), (3, 0b1010)])).w 1 = 0b0100 ∧ (runs (.isar on 1 2 (.imm 1)) (ws [(2, 2 ^ 63)])).w 1 = 0xC000000000000000
    ∧ (runs (.irot on 1 2 (.imm 4)) (ws [(2, 0xF000000000000001)])).w 1 = 0x1F ∧ (runs (.clz on 1 2) (ws [(2, 0)])).w 1 = 64 ∧ (runs (.popc on 1 2) (ws [(2, 0xFF)])).w 1 = 8 := by decide +kernel
/-- R151, R152: -1 below 1 as S8, above as N8; a field taken signed and natural; a field put in. -/
theorem test_fields : (runs (.icmp on .s8 .lt 1 2 (.imm 1)) (ws [(2, 0xFF)])).f 1 = onesF ∧ (runs (.icmp on .n8 .lt 1 2 (.imm 1)) (ws [(2, 0xFF)])).f 1 = 0
    ∧ (runs (.ext on 1 2 4 4) (ws [(2, 0x80)])).w 1 = 0xFFFFFFFFFFFFFFF8 ∧ (runs (.extn on 1 2 4 4) (ws [(2, 0x80)])).w 1 = 8
    ∧ (runs (.ins on 1 2 4 4) (ws [(1, 0xFFFF), (2, 0)])).w 1 = 0xFF0F := by decide +kernel
theorem test_constants : (runs (.li on 1 0x8000000000000001) id).w 1 = 0x8000000000000001 ∧ (runs (.lea on false 3 1 2 (.reg 3)) (ws [(2, 5), (3, 6)])).w 1 = 53
    ∧ (runs (.lea on true 0 1 0 (.imm 96)) id).w 1 = 0x10060 := by decide +kernel
/-- The window: a store and a load of a scratchpad word. -/
theorem test_window : (runs (.st on .n32 .plain 10 (.imm 32) 6) (ws [(10, win), (6, 0x1234567890)])).sp.readLE 32 8 = 0x34567890
    ∧ (runs (.ld on .s16 .plain 5 10 (.imm 32)) (fun t => ws [(10, win)] (t.putSp 32 [0xFE, 0xFF, 1]))).w 5 = 0xFFFFFFFFFFFFFFFE := by decide +kernel

/-! Numbers: the worked values of chapter 8. -/

/-- 300.0, 470 and 460 into E4M3. -/
theorem test_round : round .e4m3 .rne false 0 (.fin false 300 0) = (0x79, fNX) ∧ round .e4m3 .rne false 0 (.fin false 470 0) = (0x7F, fOF ||| fNX)
    ∧ round .e4m3 .rne true 0 (.fin false 470 0) = (0x7E, fOF ||| fNX ||| fSAT) ∧ (round .e4m3 .rne false 0 (.fin false 460 0)).1 = 0x7E := by decide +kernel
/-- 300.0 under SR with the words 0x5FFF_FFFF and 0x6000_0000. -/
theorem test_round_sr : (round .e4m3 (.sr 1) false 0x5FFFFFFF (.fin false 300 0)).1 = 0x7A ∧ (round .e4m3 (.sr 1) false 0x60000000 (.fin false 300 0)).1 = 0x79 := by decide +kernel
/-- SS8: 0x9A is -3/64, 0x70 and 0x07 are 1.0 (in units of 2^-6). -/
theorem test_ss8 : ss8Int 0x9A = -3 ∧ ss8Int 0x70 = 64 ∧ ss8Int 0x07 = 64 ∧ ss8Int 0x65 = 48 ∧ ss8Int 0x7D = 48 := by decide +kernel
/-- The four products of R186 with the accumulator 0.25. -/
theorem test_window_sum : windowSum 0x3E800000 [.val (.fin false 1 40) false, .val (.fin false 3 (-1)) false, .val (.fin true 1 40) false, .val (.fin false 3 (-32)) false] .rne false 0
    = (0x3FE00000, fNX) := by decide +kernel
/-- R312's example: 2^24, then 3.0, then -1.0. R380's: 1 and 1 and 1 at rank 1, then 2^24 with it and with 1. -/
theorem test_red_steps : redStep .add .f32 .rne (redStep .add .f32 .rne 0x4B800000 0x40400000) 0xBF800000 = 0x4B800002
    ∧ (let one := 0x3F800000
       redStep .add .f32 .rne (redStep .add .f32 .rne 0x4B800000 (redStep .add .f32 .rne (redStep .add .f32 .rne one one) one)) one = 0x4B800002) := by decide +kernel

/-! Vectors, lazy reals, matrices: the routines of chapters 9 to 11, an instruction at a time. -/

def acts : Tile → Tile := vs 1 32 ([0x3FC00000, 0x3FC00000, 0x3FC00000, 0xC1600000, 0x3FC00000, 0x3FC00000, 0x3FC00000, 0x41520000] ++ List.replicate 24 0x3FC00000)
theorem test_vamax : (after 0x450301010008000000000000 acts).w 4 = 0x41600000 := by decide +kernel
theorem test_vquant : let t := after 0x44010081140B800000000008 (fun t => ws [(5, 0x7A000)] (acts t))
    vElem 8 (t.v 2) 0 = 0x64 ∧ vElem 8 (t.v 2) 3 = 0xFE ∧ vElem 8 (t.v 2) 7 = 0x7D ∧ (t.ctl cFPFLAGS).toNat = fNX.toNat := by decide +kernel
theorem test_vdq : let t := after 0x440200C2140800000000000B (fun t => ws [(5, 0x7A000)] (vs 2 8 [0x64, 0, 0, 0xFE, 0, 0, 0, 0x7D] t))
    vElem 32 (t.v 3) 0 = 0x3FC00000 ∧ vElem 32 (t.v 3) 3 = 0xC1600000 ∧ vElem 32 (t.v 3) 7 = 0x41500000 := by decide +kernel
theorem test_vector : vElem 16 ((after 0x400000C10809000000000000 (fun t => vs 2 16 [0x3C00] (vs 1 16 [0x3C00] t))).v 3) 0 = 0x4000
    ∧ vElem 8 ((runs (.vslide on .n8 3 5 1 2) (fun t => vs 2 8 [7] (vs 1 8 [0, 1, 2, 9] t))).v 5) 0 = 9 ∧ (runs (.vredsum on .s8 .rne false 5 1) (fun t => ws [(5, 10)] (vs 1 8 [0xFF, 0xFF] t))).w 5 = 8
    ∧ (runs (.ffirst on .n8 5 2) (fun t => t.setF 2 0b1000)).w 5 = 3 ∧ (runs (.ffirst on .n8 5 2) (fun t => t.setF 2 0)).w 5 = 128 := by decide +kernel
def third : Tile → Tile := fun t => t.putSp (t.base + 0x1280 + 64) (leBytes 64 (0x5555555555555555 * 2 ^ 192 + 2 ^ 256 * 64 + 2 ^ 272))
/-- 1/3 to 64 digits lies below 1/2 and above 1/4; the 64 digits; as F32. -/
theorem test_lazy : (runs (.ycmpq on 1 1 11 12) (fun t => ws [(11, 1), (12, 2)] (third t))).f 1 = onesF ∧ (runs (.ycmp on true 2 1 13) (fun t => ws [(13, 0x3E800000)] (third t))).f 2 = 0
    ∧ (runs (.yrd on false .rne 14 1) third).w 14 = 0x5555555555555555 ∧ (runs (.yrd on true .rne 14 1) third).w 14 = 0x3EAAAAAB := by decide +kernel
/-- The block product: row 0 of A with both rows of Bt: 5 and 5.5; row 1: 2 and 2.5. -/
def block (k : TReg) (ty : Ty) (rows cols o : Nat) (t : Tile) : Tile := match (match tldOp 0x160000 ((t.prepMat).setTcfg k (mcfgVal ty (BitVec.ofNat 8 rows) (BitVec.ofNat 10 cols))) k (word o) 32 false with
    | .ok (u, _) => some u
    | .error _ => none) with
  | some u => u
  | none => t
theorem test_mmac : let t := after 0x730000400408000000000000 (fun t => block 1 .e4m3 2 4 64 (block 0 .e4m3 2 4 0 ((((t.putSp 0 (leBytes 4 0x38384038)).putSp 32 (leBytes 4 0x30303030)).putSp 64
      (leBytes 4 0x38383838)).putSp 96 (leBytes 4 0x30403040))))
    (t.mat.readLE 0x50000 4, t.mat.readLE 0x50004 4, t.mat.readLE 0x50200 4, t.mat.readLE 0x50204 4) = (0x40A00000, 0x40B00000, 0x40000000, 0x40200000) := by decide +kernel

/-! The machine's own parts. -/

/-- The worked line of chapter 4: its parities, its slots. -/
def line86 : BitVec 512 := BitVec.ofNat 512 (0x100001450006010000000001 + 2 ^ 96 * 0x400000C10809000000000000 + 2 ^ 192 * 0x010000000000000000000000 + 2 ^ 288 * 0x010000000000000000000000
  + 2 ^ 384 * 0x010000000000000000000000 + 2 ^ 480 * 0x003F0021)
theorem test_line : lparOk line86 = true ∧ (List.range 5).all (sparOk line86) = true ∧ lparOk (line86 ^^^ BitVec.ofNat 512 (2 ^ 480)) = false ∧ sparOk (line86 ^^^ 1) 0 = false := by decide +kernel
/-- Root 19 of 20: two levels, byte 39 of its record 0x13. -/
theorem test_lineage : rootWidth 20 = 2 ∧ (rootLin 2 19).toNat / 2 ^ 120 = 0x13 ∧ (rootLin 2 2).toNat / 2 ^ 120 = 0x02 := by decide +kernel
/-- CRC-32 of the nine digits is 0xCBF4_3926. -/
theorem test_crc : crc32 [0x31, 0x32, 0x33, 0x34, 0x35, 0x36, 0x37, 0x38, 0x39] = 0xCBF43926 := by decide +kernel
/-- R66: N and S alone cut; E, SE and S do not; a lone corner does not count. Positions N, NE, E, SE, S, SW, W, NW. -/
theorem test_t4 : t4Of [true, false, false, false, true, false, false, false] = 2 ∧ t4Of [false, false, true, true, true, false, false, false] = 1
    ∧ t4Of [false, true, false, false, true, false, false, false] = 1 := by decide +kernel
/-- R62: the distance of tile 275 in an empty package. -/
theorem test_seed : State.reset.seedDist 0 275 = 12 ∧ State.reset.seedDist 0 0 = 1 := by decide +kernel
/-- FIPS 180-4 (log 48): the first word of SHA-512 of the three letters abc. -/
theorem test_sha512 : (sha512 [0x61, 0x62, 0x63]).take 4 = [0xDD, 0xAF, 0x35, 0xA1] := by decide +kernel

end Sys2Proof.Machine.Tests
end

section
/-! SUPPORT. What the launch ports' shared operations do: a job and a stream put back, what a write of job memory leaves of a job,
the lowest code, the command at the front of a port. -/
namespace Sys2Proof.Machine

/-! Maps, and jobs and streams put into the state. -/

theorem AMap.set_of_get? {α : Type} {m : AMap α} {a : Nat} {x : α} (h : AMap.get? m a = some x) : AMap.set m a x = m := by
  induction m with
  | nil => simp [AMap.get?] at h
  | cons e t ih =>
    obtain ⟨k, v⟩ := e
    by_cases hk : k = a
    · simp_all [AMap.get?, AMap.set]
    · simp_all [AMap.get?, AMap.set]

@[simp] theorem State.setJob_setJob (s : State) (n : Nat) (i j : Job) : (s.setJob n i).setJob n j = s.setJob n j := by
  simp [State.setJob]
theorem State.setJob_of_job? {s : State} {n : Nat} {j : Job} (h : s.job? n = some j) : s.setJob n j = s := by
  simp [State.setJob, AMap.set_of_get? h]
@[simp] theorem Job.setStream_setStream (j : Job) (n : Nat) (x y : Stream) : (j.setStream n x).setStream n y = j.setStream n y := by
  simp [Job.setStream]
theorem Job.stream_setStream_ne (j : Job) {n m : Nat} (x : Stream) (h : m ≠ n) : (j.setStream n x).stream m = j.stream m := by
  simp [Job.stream, Job.setStream, AMap.getD_set_ne _ _ _ h]
@[simp] theorem Job.streams_setStream (j : Job) (n : Nat) (x : Stream) : (j.setStream n x).streams = AMap.set j.streams n x := rfl
@[simp] theorem Job.launches_setStream (j : Job) (n : Nat) (x : Stream) : (j.setStream n x).launches = j.launches := rfl
@[simp] theorem Job.graphs_setStream (j : Job) (n : Nat) (x : Stream) : (j.setStream n x).graphs = j.graphs := rfl
theorem Job.stream_congr {i j : Job} (h : i.streams = j.streams) (n : Nat) : i.stream n = j.stream n := by
  simp [Job.stream, h]
theorem Job.stream_of_get? {j : Job} {n : Nat} {x : Stream} (h : AMap.get? j.streams n = some x) : j.stream n = x := by
  simp [Job.stream, AMap.getD, h]

/-! A write of job memory reaches memory, caches and sluices, and of a job the copies of its control block: no stream. -/

theorem State.jobs_foldl {α : Type} {f : State → α → State} (h : ∀ s a, (f s a).jobs = s.jobs) (l : List α) (s : State) :
    (l.foldl f s).jobs = s.jobs := by
  induction l generalizing s with
  | nil => rfl
  | cons a t ih => exact (ih (f s a)).trans (h s a)

@[simp] theorem State.jobs_combine (s : State) (a n : Nat) : (s.combine a n).jobs = s.jobs := by
  unfold State.combine
  dsimp only
  split <;> rfl
@[simp] theorem State.jobs_dhBytes (s : State) (origin : Nat) (clock : List (BitVec 32)) (k : Nat) (bs : List Byte) :
    (s.dhBytes origin clock k bs).jobs = s.jobs := by
  induction bs generalizing s k with
  | nil => rfl
  | cons b t ih => exact ih (s.dhByte origin clock k b) (k + 1)
@[simp] theorem State.jobs_dhApply (s : State) (site origin : Nat) (clock : List (BitVec 32)) (pa : Nat) (bs : List Byte) (bad : NSet) :
    (s.dhApply site origin clock pa bs bad).jobs = s.jobs :=
  s.jobs_dhBytes origin clock _ bs
@[simp] theorem State.jobs_dhSend (s : State) (a : Nat) (w : DhWrite) : (s.dhSend a w).jobs = s.jobs := by
  unfold State.dhSend State.sluiceSend
  exact State.jobs_foldl (fun _ _ => by rfl) _ s
@[simp] theorem State.jobs_dhWrite (s : State) (host : Bool) (site : Nat) (sites : List Nat) (pa : Nat) (bs : List Byte) (bad : NSet) :
    (s.dhWrite host site sites pa bs bad).jobs = s.jobs :=
  (State.jobs_foldl (fun s _ => s.jobs_dhSend _ _) _ _).trans (s.jobs_dhApply ..)
@[simp] theorem State.jobs_writeHome (s : State) (host : Bool) (sites : List Nat) (a : Nat) (bs : List Byte) (bad : NSet) :
    (s.writeHome host sites a bs bad).jobs = s.jobs := by
  unfold State.writeHome
  dsimp only
  split
  · exact s.jobs_dhWrite ..
  · exact s.jobs_combine ..
@[simp] theorem State.jobs_walked (s : State) (jid die va : Nat) : (s.walked jid die va).jobs = s.jobs := by
  unfold State.walked
  split
  · rfl
  · split
    · exact State.jobs_foldl (fun s a => s.jobs_combine a 8) _ s
    · rfl

theorem State.job?_congr {s t : State} (h : s.jobs = t.jobs) (n : Nat) : s.job? n = t.job? n := by
  simp [State.job?, h]

theorem State.job?_tookQ {s : State} {jid : Nat} {j : Job} (h : s.job? jid = some j) (o n : Nat) :
    ∃ j', (s.tookQ jid o n).job? jid = some j' ∧ j'.streams = j.streams := by
  unfold State.tookQ
  rw [h]
  dsimp only
  split
  · exact ⟨j, h, rfl⟩
  · exact ⟨_, State.job?_setJob .., rfl⟩

theorem State.job?_devWrite {s t : State} {jid site va acc : Nat} {bs : List Byte} {j : Job} (hj : s.job? jid = some j)
    (h : s.devWrite jid site va acc bs = .ok t) : ∃ j', t.job? jid = some j' ∧ j'.streams = j.streams := by
  unfold State.devWrite at h
  simp only [bind, Except.bind, pure, Except.pure] at h
  split at h
  · cases h
  next ps _ =>
    have hw : ((ps.foldl (fun (u : State) p => u.homeWrite (u.jobSites jid) p.1 ((bs.drop p.2.1).take p.2.2))
        ((pieces va bs.length).foldl (fun (u : State) p => u.walked jid site p.1) s)).job? jid) = some j := by
      rw [State.job?_congr (State.jobs_foldl (fun u p => u.jobs_writeHome ..) ps _),
        State.job?_congr (State.jobs_foldl (fun u p => u.jobs_walked ..) _ s), hj]
    cases h
    split
    · exact State.job?_tookQ hw ..
    · exact ⟨j, hw, rfl⟩

/-! A status record, and the port that a CLOSE leaves. -/

theorem State.badWrite_eq {s : State} {jid : Nat} {j : Job} (h : s.job? jid = some j) (sn : Nat) :
    s.badWrite jid sn = s.setJob jid (j.setStream sn { j.stream sn with
      badwr := if (j.stream sn).badwr = BitVec.allOnes 32 then (j.stream sn).badwr else (j.stream sn).badwr + 1 }) := by
  simp [State.badWrite, h]

/-- A status record is left out, written, or counted in BADWR (R41). -/
theorem State.writeStatus_cases (s : State) (jid sn stat status gang ticket ctag : Nat) :
    s.writeStatus jid sn stat status gang ticket ctag = s
    ∨ (∃ bs, s.devWrite jid (s.jobSite jid) stat accStore bs = .ok (s.writeStatus jid sn stat status gang ticket ctag))
    ∨ s.writeStatus jid sn stat status gang ticket ctag = s.badWrite jid sn := by
  unfold State.writeStatus
  split
  · exact .inl rfl
  · dsimp only
    split
    next t ht => exact .inr (.inl ⟨_, ht⟩)
    next => exact .inr (.inr rfl)

/-- Job `jid` is there; its stream `sn` is `x` but for BADWR, its other streams are those of `j`. -/
def State.portIs (s : State) (jid sn : Nat) (j : Job) (x : Stream) : Prop :=
  ∃ (i : Job) (b : BitVec 32), s.job? jid = some i ∧ AMap.get? i.streams sn = some { x with badwr := b }
    ∧ ∀ n, n ≠ sn → i.stream n = j.stream n

theorem State.portIs_setJob (s : State) (jid : Nat) {sn : Nat} {i j : Job} {x : Stream} (b : BitVec 32)
    (h : ∀ n, n ≠ sn → i.stream n = j.stream n) :
    (s.setJob jid (i.setStream sn { x with badwr := b })).portIs jid sn j x :=
  ⟨_, b, State.job?_setJob .., by simp, fun n hn => by rw [Job.stream_setStream_ne _ _ hn, h n hn]⟩

theorem State.portIs_setStream (s : State) (jid sn : Nat) (j : Job) (x : Stream) : (s.setJob jid (j.setStream sn x)).portIs jid sn j x :=
  State.portIs_setJob s jid x.badwr (fun _ _ => rfl)

theorem State.portIs.badWrite {s : State} {jid sn : Nat} {j : Job} {x : Stream} (h : s.portIs jid sn j x) :
    (s.badWrite jid sn).portIs jid sn j x := by
  obtain ⟨i, b, hi, hx, ho⟩ := h
  rw [State.badWrite_eq hi, Job.stream_of_get? hx]
  exact State.portIs_setJob s jid _ ho

theorem State.portIs.writeStatus {s : State} {jid sn : Nat} {j : Job} {x : Stream} (h : s.portIs jid sn j x)
    (stat status gang ticket ctag : Nat) : (s.writeStatus jid sn stat status gang ticket ctag).portIs jid sn j x := by
  obtain hw | ⟨bs, hw⟩ | hw := s.writeStatus_cases jid sn stat status gang ticket ctag
  · rwa [hw]
  · obtain ⟨i, b, hi, hx, ho⟩ := h
    obtain ⟨i', hi', hs⟩ := State.job?_devWrite hi hw
    exact ⟨i', b, hi', by rw [hs, hx], fun n hn => by rw [Job.stream_congr hs, ho n hn]⟩
  · rw [hw]; exact h.badWrite

/-- Every command behind a CLOSE gets its record: none is left, and nothing else of the job's streams changes but BADWR. -/
theorem State.portIs.rejectBehind {s : State} {jid sn : Nat} {j : Job} {x : Stream} (h : s.portIs jid sn j x) :
    (s.rejectBehind jid sn).portIs jid sn j { x with queue := [], overflow := [] } := by
  obtain ⟨i, b, hi, hx, ho⟩ := h
  simp only [State.rejectBehind, hi, Job.stream_of_get? hx]
  refine List.foldlRecOn (motive := fun u : State => u.portIs jid sn j _) _ _ ?_ (fun u hu d _ => ?_)
  · exact State.portIs_setJob s jid (x := { x with queue := [], overflow := [] }) b ho
  · split
    · exact hu.writeStatus ..
    · exact hu.badWrite

theorem State.portIs.rejectBehind_of_empty {s : State} {jid sn : Nat} {j : Job} {x : Stream} (h : s.portIs jid sn j x)
    (hq : x.queue = []) (hv : x.overflow = []) : s.rejectBehind jid sn = s := by
  obtain ⟨i, b, hi, hx, -⟩ := h
  have hx' : AMap.set i.streams sn { x with badwr := b, queue := [], overflow := [] } = i.streams :=
    AMap.set_of_get? (by rw [hx, hq, hv])
  simp [State.rejectBehind, hi, Job.stream_of_get? hx, hq, hv, Job.setStream, hx', State.setJob_of_job? hi]

/-! Commands: their fields, the codes that apply, the front served. -/

theorem statOk_iff {a : Nat} : statOk a = true ↔ a = 0 ∨ (a % 32 = 0 ∧ a < 2 ^ 60) := by
  simp [statOk]
theorem cmdClean_iff {c : List Byte} : cmdClean c = true ↔ fieldAt c 9 7 = 0 ∧ fieldAt c 32 32 = 0 := by
  simp [cmdClean]
theorem mem_codeIf {b : Bool} {c k : Nat} : k ∈ codeIf b c ↔ b = true ∧ k = c := by
  cases b <;> simp [codeIf]

theorem lowest_eq_min? (l : List Nat) : lowest l = l.min? := by
  induction l with
  | nil => rfl
  | cons c t ih => rw [lowest, ih, List.min?_cons]; cases t.min? <;> rfl
theorem lowest_eq_some {l : List Nat} {k : Nat} (hk : k ∈ l) (hm : ∀ m ∈ l, k ≤ m) : lowest l = some k := by
  rw [lowest_eq_min?, List.min?_eq_some_iff]
  exact ⟨hk, hm⟩

/-- The last command served leaves none. -/
theorem Stream.overflow_pop_of_last {x : Stream} (hv : x.overflow = []) : x.pop.overflow = [] := by
  simp [Stream.pop, hv]
theorem Stream.queue_pop_of_last {x : Stream} (hq : x.queue.length ≤ 1) (hv : x.overflow = []) : x.pop.queue = [] := by
  have : x.queue.drop 1 = [] := List.drop_eq_nil_of_le hq
  simp only [Stream.pop, this, hv, List.take_nil, List.append_nil]

theorem State.popPort_eq {s : State} {jid : Nat} {j : Job} (h : s.job? jid = some j) (sn : Nat) :
    s.popPort jid sn = s.setJob jid (j.setStream sn (j.stream sn).pop) := by
  simp [State.popPort, h]
theorem State.dropCmd_eq {s : State} {jid : Nat} {j : Job} (h : s.job? jid = some j) (sn : Nat) :
    s.dropCmd jid sn = s.setJob jid (j.setStream sn { (j.stream sn).pop with
      badwr := if (j.stream sn).badwr = BitVec.allOnes 32 then (j.stream sn).badwr else (j.stream sn).badwr + 1 }) := by
  rw [State.dropCmd, State.popPort_eq h, State.badWrite_eq (State.job?_setJob ..)]
  simp [Stream.pop]

end Sys2Proof.Machine
end

section
/-! SUPPORT. The events of a launch port (R40 to R43): what each answers for a command at the front, and what acceptance takes. -/
namespace Sys2Proof.Machine

/-! Acceptance (R24, R43). -/

/-- Job `i` is `j` after one more gang, of what `l` copied: a launch and a ticket of its stream are taken, nothing else of the
streams and no graph. -/
structure Job.Took (j : Job) (l : Launch) (i : Job) : Prop where
  launches : i.launches = j.launches + 1
  graphs : i.graphs = j.graphs
  own : i.stream l.desc.stream = { j.stream l.desc.stream with tail := (j.stream l.desc.stream).tail + 1 }
  others : ∀ n, n ≠ l.desc.stream → i.stream n = j.stream n

/-- A gang as acceptance leaves it: it holds what `l` copied and waits. -/
structure Gang.Accepted (g : Gang) (l : Launch) (ticket ctag stat : Nat) : Prop where
  desc : g.desc = l.desc
  foot : g.foot = l.foot
  code : g.code = l.code
  consts : g.consts = l.consts
  stream : g.stream = l.desc.stream
  ticket : g.ticket = ticket
  phase : g.phase = .waiting
  dispatched : g.dispatched = false
  tasks : g.tasks = []
  ctag : g.ctag = ctag
  stat : g.stat = stat

theorem State.accept_spec {s : State} {jid : Nat} {j : Job} (h : s.job? jid = some j) (l : Launch) (ctag stat : Nat)
    (node : Option (Nat × Nat)) :
    ∃ (s1 : State) (i : Job) (g : Gang),
      s.accept jid l ctag stat node = (s1, j.launches % noGang, (j.stream l.desc.stream).tail + 1)
      ∧ s1.mem = s.mem ∧ s1.job? jid = some i ∧ j.Took l i ∧ i.gang? (j.launches % noGang) = some g
      ∧ g.Accepted l ((j.stream l.desc.stream).tail + 1) ctag stat := by
  simp only [State.accept, h]
  refine ⟨_, _, _, rfl, rfl, State.job?_setJob .., ⟨rfl, rfl, ?_, fun n hn => ?_⟩, Job.gang?_setGang .., ?_⟩
  · exact Job.stream_setStream ..
  · exact Job.stream_setStream_ne _ _ hn
  · constructor <;> rfl

/-- What would be accepted was read from the descriptor. -/
theorem State.descrAt_of_readLaunch {s : State} {jid addr more : Nat} {j : Job} {ahead : Desc → Nat} {codes : List Nat} {l : Launch}
    (h : s.readLaunch jid j addr more ahead = (codes, some l)) : s.descrAt jid addr = some l.desc := by
  unfold State.readLaunch at h
  dsimp only at h
  split at h
  · cases h
  next u b hd =>
    simp only [State.descrAt, hd]
    split at h
    · cases h
    · split at h
      · cases h
      · split at h <;> cases h
        rfl

/-- The codes that apply to a LAUNCH at the front: those of what it names, and those of the port and the command (R42). -/
def State.launchCodes (s : State) (job sn : Nat) (j : Job) (c : List Byte) (codes : List Nat) : List Nat :=
  codes ++ (codeIf (!(j.stream sn).opened) 0x104
    ++ (codeIf ((s.descrAt job (cmdAddr c)).any (fun d => decide (d.stream ≠ sn))) 0x105 ++ codeIf (!cmdClean c) 0x10D))

theorem State.mem_launchCodes {s : State} {job sn : Nat} {j : Job} {c : List Byte} {codes : List Nat} {k : Nat} :
    k ∈ s.launchCodes job sn j c codes ↔ k ∈ codes ∨ (k = 0x104 ∧ (j.stream sn).opened = false)
      ∨ (k = 0x105 ∧ ∃ d, s.descrAt job (cmdAddr c) = some d ∧ d.stream ≠ sn)
      ∨ (k = 0x10D ∧ ¬ (fieldAt c 9 7 = 0 ∧ fieldAt c 32 32 = 0)) := by
  simp only [State.launchCodes, List.mem_append, mem_codeIf, Option.any_eq_true, decide_eq_true_eq, ← cmdClean_iff,
    Bool.not_eq_true', Bool.not_eq_true, and_comm]

/-! The events: the arm of each, and what it answers for the command at the front. -/

@[simp] theorem exec_portLaunch (job sn : Nat) (s : State) : exec (.portLaunch job sn) s = execPortLaunch job sn s := rfl
@[simp] theorem exec_portGraph (job sn : Nat) (s : State) : exec (.portGraph job sn) s = execPortGraph job sn s := rfl
@[simp] theorem exec_graphInstantiate (job sn : Nat) (s : State) :
    exec (.graphInstantiate job sn) s = execGraphInstantiate job sn s := rfl
@[simp] theorem exec_portOpen (job sn : Nat) (s : State) : exec (.portOpen job sn) s = execPortOpen job sn s := rfl
@[simp] theorem exec_portClose (job sn : Nat) (s : State) : exec (.portClose job sn) s = execPortClose job sn s := rfl
@[simp] theorem exec_closeComplete (job sn : Nat) (s : State) : exec (.closeComplete job sn) s = execCloseComplete job sn s := rfl

theorem cmd_unplain_iff {c : List Byte} :
    (!cmdClean c || decide (cmdAddr c ≠ 0)) = true ↔ ¬ (cmdClean c = true ∧ cmdAddr c = 0) := by
  cases cmdClean c <;> simp

section Front
variable {s : State} {job sn : Nat} {j : Job} {c : List Byte} (hj : s.job? job = some j) (hf : s.front job sn = some c)
include hj hf

theorem exec_portOpen_next (hs : statOk (cmdStat c) = true) (hc : cmdCode c = 3) (hp : cmdClean c = true ∧ cmdAddr c = 0)
    (ho : (j.stream sn).opened = false) :
    exec (.portOpen job sn) s = .next ((s.setJob job (j.setStream sn { (j.stream sn).pop with
      opened := true, tail := 0, head := 1, epoch := (j.stream sn).epoch + 1, lost := [] })).writeStatus
        job sn (cmdStat c) 0 noGang 0 (cmdTag c)) := by
  obtain ⟨hp, ha⟩ := hp
  simp [execPortOpen, hf, hj, hs, hc, hp, ha, ho, State.popPort_eq hj, State.portStatus, Stream.pop]

theorem exec_portOpen_reject (hs : statOk (cmdStat c) = true) (hc : cmdCode c = 3)
    (hr : (j.stream sn).opened = true ∨ ¬ (cmdClean c = true ∧ cmdAddr c = 0)) :
    exec (.portOpen job sn) s = .next (s.reject job sn c 0x10D) := by
  have : ((j.stream sn).opened || !cmdClean c || decide (cmdAddr c ≠ 0)) = true := by
    rwa [Bool.or_assoc, Bool.or_eq_true, cmd_unplain_iff]
  simp only [exec_portOpen, execPortOpen, hf, hj, hs, hc, this]
  rfl

theorem exec_portClose_wait (hs : statOk (cmdStat c) = true) (hc : cmdCode c = 4) (hp : cmdClean c = true ∧ cmdAddr c = 0)
    (ho : (j.stream sn).opened = true) : exec (.portClose job sn) s = .next s := by
  obtain ⟨hp, ha⟩ := hp
  simp [execPortClose, hf, hj, hs, hc, hp, ha, ho]

theorem exec_portClose_reject (hs : statOk (cmdStat c) = true) (hc : cmdCode c ∉ [1, 2, 3])
    (hr : cmdCode c ≠ 4 ∨ (j.stream sn).opened = false ∨ ¬ (cmdClean c = true ∧ cmdAddr c = 0)) :
    exec (.portClose job sn) s = .next (s.reject job sn c 0x10D) := by
  have : (decide (cmdCode c ≠ 4) || !(j.stream sn).opened || !cmdClean c || decide (cmdAddr c ≠ 0)) = true := by
    rwa [Bool.or_assoc, Bool.or_assoc, Bool.or_eq_true, Bool.or_eq_true, cmd_unplain_iff, decide_eq_true_iff, Bool.not_eq_true']
  have hc' : [1, 2, 3].contains (cmdCode c) = false := by simpa using hc
  simp only [exec_portClose, execPortClose, hf, hj, hs, hc', this]
  rfl

theorem exec_closeComplete_wait (hh : (j.stream sn).head ≠ (j.stream sn).tail + 1) :
    exec (.closeComplete job sn) s = .next s := by
  simp [execCloseComplete, hf, hj, hh]

theorem exec_closeComplete_next (hs : statOk (cmdStat c) = true) (hc : cmdCode c = 4) (hp : cmdClean c = true ∧ cmdAddr c = 0)
    (ho : (j.stream sn).opened = true) (hh : (j.stream sn).head = (j.stream sn).tail + 1) :
    exec (.closeComplete job sn) s = .next (((s.setJob job (j.setStream sn { (j.stream sn).pop with opened := false })).writeStatus
      job sn (cmdStat c) 0 noGang 0 (cmdTag c)).rejectBehind job sn) := by
  obtain ⟨hp, ha⟩ := hp
  simp [execCloseComplete, hf, hj, hs, hc, hp, ha, ho, hh, State.popPort_eq hj, State.portStatus]

/-- A command whose STATADDR can take no record is dropped by the event that serves it (R41). -/
theorem exec_port_drop (hs : statOk (cmdStat c) = false) :
    (cmdCode c = 1 → exec (.portLaunch job sn) s = .next (s.dropCmd job sn))
    ∧ (cmdCode c = 2 → exec (.portGraph job sn) s = .next (s.dropCmd job sn))
    ∧ (cmdCode c = 3 → exec (.portOpen job sn) s = .next (s.dropCmd job sn))
    ∧ (cmdCode c ∉ [1, 2, 3] → exec (.portClose job sn) s = .next (s.dropCmd job sn)) := by
  refine ⟨fun hc => ?_, fun hc => ?_, fun hc => ?_, fun hc => ?_⟩
  · simp [execPortLaunch, hf, hj, hs, hc]
  · simp [execPortGraph, hf, hj, hs, hc]
  · simp [execPortOpen, hf, hj, hs, hc]
  · have hc' : [1, 2, 3].contains (cmdCode c) = false := by simpa using hc
    simp only [exec_portClose, execPortClose, hf, hj, hs, hc']
    rfl

theorem exec_portLaunch_reject (hs : statOk (cmdStat c) = true) (hc : cmdCode c = 1) {codes : List Nat} {l : Option Launch}
    (hr : s.readLaunch job j (cmdAddr c) 0 (fun _ => 0) = (codes, l)) {k : Nat}
    (hk : lowest (s.launchCodes job sn j c codes) = some k) :
    exec (.portLaunch job sn) s = .next (s.reject job sn c k) := by
  unfold State.launchCodes at hk
  simp only [exec_portLaunch, execPortLaunch, hf, hj, hs, hc, hr, hk]
  rfl

theorem exec_portLaunch_next (hs : statOk (cmdStat c) = true) (hc : cmdCode c = 1) {codes : List Nat} {l : Launch}
    (hr : s.readLaunch job j (cmdAddr c) 0 (fun _ => 0) = (codes, some l)) (hk : s.launchCodes job sn j c codes = []) :
    exec (.portLaunch job sn) s =
      (let a := (s.popPort job sn).accept job l (cmdTag c) (cmdStat c) none
      .next (a.1.writeStatus job sn (cmdStat c) 0 a.2.1 a.2.2 (cmdTag c))) := by
  unfold State.launchCodes at hk
  simp only [exec_portLaunch, execPortLaunch, hf, hj, hs, hc, hr, hk]
  rfl

/-- A CLOSE that is done leaves its stream closed and no command behind it (R43). -/
theorem closeComplete_closes (hs : statOk (cmdStat c) = true) (hc : cmdCode c = 4) (hp : cmdClean c = true ∧ cmdAddr c = 0)
    (ho : (j.stream sn).opened = true) (hh : (j.stream sn).head = (j.stream sn).tail + 1) :
    ∃ (t : State) (jt : Job), exec (.closeComplete job sn) s = .next t ∧ t.job? job = some jt
      ∧ (jt.stream sn).opened = false ∧ (jt.stream sn).queue = [] ∧ (jt.stream sn).overflow = []
      ∧ (∀ n, n ≠ sn → jt.stream n = j.stream n)
      ∧ ((j.stream sn).queue.length ≤ 1 → (j.stream sn).overflow = [] →
        t = (s.setJob job (j.setStream sn { (j.stream sn).pop with opened := false })).writeStatus
          job sn (cmdStat c) 0 noGang 0 (cmdTag c)) := by
  have hclosed : (s.setJob job (j.setStream sn { (j.stream sn).pop with opened := false })).portIs job sn j
      { (j.stream sn).pop with opened := false } := State.portIs_setStream ..
  have hport := hclosed.writeStatus (cmdStat c) 0 noGang 0 (cmdTag c)
  obtain ⟨jt, b, hjt, hx, hother⟩ := hport.rejectBehind
  refine ⟨_, jt, exec_closeComplete_next hj hf hs hc hp ho hh, hjt, ?_, ?_, ?_, hother, fun hq hv => ?_⟩
  · rw [Job.stream_of_get? hx]
  · rw [Job.stream_of_get? hx]
  · rw [Job.stream_of_get? hx]
  · exact hport.rejectBehind_of_empty (Stream.queue_pop_of_last hq hv) (Stream.overflow_pop_of_last hv)

/-- A LAUNCH to which no code applies is accepted on the port's own stream (R43). -/
theorem portLaunch_accepts (hs : statOk (cmdStat c) = true) (hc : cmdCode c = 1) {codes : List Nat} {l : Launch}
    (hr : s.readLaunch job j (cmdAddr c) 0 (fun _ => 0) = (codes, some l)) (hk : s.launchCodes job sn j c codes = []) :
    l.desc.stream = sn ∧ ∃ (s1 : State) (i : Job) (g : Gang),
      exec (.portLaunch job sn) s = .next (s1.writeStatus job sn (cmdStat c) 0 (j.launches % noGang) ((j.stream sn).tail + 1) (cmdTag c))
      ∧ s1.mem = s.mem ∧ s1.job? job = some i ∧ (j.setStream sn (j.stream sn).pop).Took l i
      ∧ i.gang? (j.launches % noGang) = some g ∧ g.Accepted l ((j.stream sn).tail + 1) (cmdTag c) (cmdStat c) := by
  have hsn : l.desc.stream = sn := by
    refine Decidable.byContradiction (fun hne => ?_)
    have : 0x105 ∈ s.launchCodes job sn j c codes :=
      State.mem_launchCodes.mpr (.inr (.inr (.inl ⟨rfl, _, State.descrAt_of_readLaunch hr, hne⟩)))
    simp [hk] at this
  obtain ⟨s1, i, g, ha, hmem, hi, htook, hg, hacc⟩ :=
    State.accept_spec (State.job?_setJob s job (j.setStream sn (j.stream sn).pop)) l (cmdTag c) (cmdStat c) none
  rw [hsn, Job.stream_setStream] at ha hacc
  refine ⟨hsn, s1, i, g, ?_, hmem, hi, htook, hg, hacc⟩
  rw [exec_portLaunch_next hj hf hs hc hr hk, State.popPort_eq hj, ha]
  rfl

end Front

/-- Settles O40: each clause is what the port's event answers for the command at the front. -/
theorem launchPorts : Obligations.LaunchPorts := by
  unfold Obligations.LaunchPorts
  intro s job sn j c hj hf x code stat good clean plain say popped served
  have hplain : plain ↔ cmdClean c = true ∧ cmdAddr c = 0 := and_congr_left' cmdClean_iff.symm
  have hrej (k : Nat) : s.reject job sn c k = say popped k 0xFFFFFFFF 0 := by
    rw [State.reject, State.popPort_eq hj]; rfl
  rw [hplain]
  refine ⟨fun hg hc => ?_, fun hg hc => ?_, fun hg hc => ?_, fun hg => ?_, fun hg hc codes l hr => ?_⟩
  · have hs : statOk (cmdStat c) = true := statOk_iff.mpr hg
    rw [← hrej]
    exact ⟨exec_portOpen_next hj hf hs hc, exec_portOpen_reject hj hf hs hc⟩
  · have hs : statOk (cmdStat c) = true := statOk_iff.mpr hg
    have hc' : cmdCode c = 4 := hc
    rw [← hrej]
    exact ⟨fun ho hp => ⟨exec_portClose_wait hj hf hs hc hp ho, closeComplete_closes hj hf hs hc hp ho,
      exec_closeComplete_wait hj hf⟩, fun h => exec_portClose_reject hj hf hs (by simp [hc']) (.inr h)⟩
  · have hc' : cmdCode c ∉ [1, 2, 3, 4] := hc
    simp only [List.mem_cons, List.not_mem_nil, or_false, not_or] at hc'
    obtain ⟨h1, h2, h3, h4⟩ := hc'
    rw [← hrej]
    exact exec_portClose_reject hj hf (statOk_iff.mpr hg) (by simp [h1, h2, h3]) (.inl h4)
  · have hs : statOk (cmdStat c) = false := Bool.eq_false_iff.mpr (fun h => hg (statOk_iff.mp h))
    have hd := exec_port_drop hj hf hs
    rwa [State.dropCmd_eq hj] at hd
  · have hs : statOk (cmdStat c) = true := statOk_iff.mpr hg
    refine ⟨fun k hk hm => ?_, fun m hk hl => ?_⟩
    · rw [← hrej]
      exact exec_portLaunch_reject hj hf hs hc hr
        (lowest_eq_some (State.mem_launchCodes.mpr hk) (fun m hm' => hm m (State.mem_launchCodes.mp hm')))
    · subst hl
      have hnil : s.launchCodes job sn j c codes = [] :=
        List.eq_nil_iff_forall_not_mem.mpr (fun k hk' => hk k (State.mem_launchCodes.mp hk'))
      obtain ⟨hsn, s1, i, g, hex, hmem, hi, ht, hgang, ha⟩ := portLaunch_accepts hj hf hs hc hr hnil
      have hown := ht.own
      have hothers := ht.others
      rw [hsn] at hown hothers
      rw [Job.stream_setStream] at hown
      exact ⟨s1, i, g, hex, hmem, hi, ht.launches, hown,
        fun n hn => (hothers n hn).trans (Job.stream_setStream_ne _ _ hn), hgang, ha.desc, ha.foot, ha.code, ha.consts,
        ha.stream.trans hsn, ha.ticket, ha.phase, ha.dispatched, ha.tasks, ha.ctag, ha.stat⟩

end Sys2Proof.Machine
end

section
/-! SUPPORT. Graphs (R49 to R52) and the checks of descriptors (R29, R32, R42). -/
namespace Sys2Proof.Machine

/-! The nodes of a graph that is launched. -/

/-- The node that `l` becomes when the nodes `before` have taken their GANG values and tickets (R51). -/
def Job.graphNode (j : Job) (before : List (TNode × Launch)) (l : TNode × Launch) : GNode where
  gang := (j.launches + before.length) % noGang
  stream := l.2.desc.stream
  ticket := (j.stream l.2.desc.stream).tail + 1 + before.countP (fun e => decide (e.2.desc.stream = l.2.desc.stream))
  succs := l.1.succs
  count := l.1.npred

/-- The nodes of a launched graph, in order. -/
def Job.graphNodes (j : Job) (ls : List (TNode × Launch)) : List GNode := ls.mapIdx (fun n l => j.graphNode (ls.take n) l)

theorem Job.Took.tail {j i : Job} {l : Launch} (h : j.Took l i) (n : Nat) :
    (i.stream n).tail = (j.stream n).tail + if l.desc.stream = n then 1 else 0 := by
  by_cases hn : l.desc.stream = n
  · subst hn; simp [h.own]
  · simp [h.others n (Ne.symm hn), hn]

/-- A node counts the one accepted before it. -/
theorem Job.Took.graphNode {j i : Job} {l : TNode × Launch} (h : j.Took l.2 i) (before : List (TNode × Launch))
    (m : TNode × Launch) : i.graphNode before m = j.graphNode (l :: before) m := by
  have hg : i.launches + before.length = j.launches + (before.length + 1) := by rw [h.launches]; omega
  by_cases hl : l.2.desc.stream = m.2.desc.stream
  · simp [Job.graphNode, hg, h.tail, hl]; omega
  · simp [Job.graphNode, hg, h.tail, hl]

theorem Job.Took.graphNodes {j i : Job} {l : TNode × Launch} (h : j.Took l.2 i) (t : List (TNode × Launch)) :
    j.graphNodes (l :: t) = j.graphNode [] l :: i.graphNodes t := by
  simp [Job.graphNodes, List.mapIdx_cons, h.graphNode]

@[simp] theorem Job.length_graphNodes (j : Job) (ls : List (TNode × Launch)) : (j.graphNodes ls).length = ls.length := by
  simp [Job.graphNodes]
theorem Job.getElem?_graphNodes (j : Job) (ls : List (TNode × Launch)) (i : Nat) :
    (j.graphNodes ls)[i]? = ls[i]?.map (j.graphNode (ls.take i)) := by
  simp [Job.graphNodes]

/-- Every node takes, in order, the next GANG value and the next ticket of its stream. -/
theorem State.acceptNodes_spec (jid inst : Nat) (ls : List (TNode × Launch)) (k : Nat) {s : State} {j : Job}
    (h : s.job? jid = some j) :
    ∃ (s1 : State) (i : Job), State.acceptNodes jid inst ls k s = (s1, j.graphNodes ls) ∧ s1.mem = s.mem ∧ s1.job? jid = some i
      ∧ i.launches = j.launches + ls.length ∧ i.graphs = j.graphs
      ∧ ∀ n, (i.stream n).tail = (j.stream n).tail + ls.countP (fun e => decide (e.2.desc.stream = n)) := by
  induction ls generalizing k s j with
  | nil => exact ⟨s, j, rfl, rfl, h, rfl, rfl, fun _ => rfl⟩
  | cons l t ih =>
    obtain ⟨s1, j1, g, hacc, hmem1, hj1, htook, -, -⟩ := State.accept_spec h l.2 0 0 (some (inst, k))
    obtain ⟨s2, i, hrest, hmem2, hi, hlaunches, hgraphs, htails⟩ := ih (k + 1) hj1
    refine ⟨s2, i, ?_, hmem2.trans hmem1, hi, ?_, hgraphs.trans htook.graphs, fun n => ?_⟩
    · rw [State.acceptNodes, hacc]
      dsimp only
      rw [hrest, htook.graphNodes]
      rfl
    · rw [hlaunches, htook.launches, List.length_cons]; omega
    · rw [htails, htook.tail, List.countP_cons]
      simp only [decide_eq_true_eq]
      omega

theorem Job.tail_setStream_pop (j : Job) (sn n : Nat) : ((j.setStream sn (j.stream sn).pop).stream n).tail = (j.stream n).tail := by
  by_cases h : n = sn
  · subst h; simp [Stream.pop]
  · rw [Job.stream_setStream_ne _ _ h]
theorem Job.graphNodes_setStream_pop (j : Job) (sn : Nat) (ls : List (TNode × Launch)) :
    (j.setStream sn (j.stream sn).pop).graphNodes ls = j.graphNodes ls := by
  simp [Job.graphNodes, Job.graphNode, Job.tail_setStream_pop]

/-! The events of a GRAPH command. -/

section Front
variable {s : State} {job sn : Nat} {j : Job} {c : List Byte} {codes : List Nat} {ls : List (TNode × Launch)}
  (hj : s.job? job = some j) (hf : s.front job sn = some c) (hs : statOk (cmdStat c) = true) (hc : cmdCode c = 2)
  (hr : s.readGraph job j c sn = (codes, ls))
include hj hf hs hc hr

theorem exec_portGraph_reject {k : Nat} (hk : lowest codes = some k) :
    exec (.portGraph job sn) s = .next (s.reject job sn c k) := by
  simp [execPortGraph, hf, hj, hs, hc, hr, hk]

theorem exec_portGraph_wait (hk : codes = []) : exec (.portGraph job sn) s = .next s := by
  simp [execPortGraph, hf, hj, hs, hc, hr, hk, lowest]

omit hs hc in
theorem exec_graphInstantiate_wait (hw : s.countersFree j < ls.length) : exec (.graphInstantiate job sn) s = .next s := by
  simp [execGraphInstantiate, hf, hj, hr, hw]

theorem exec_graphInstantiate_next (hk : codes = []) (hw : ls.length ≤ s.countersFree j) {n0 : GNode}
    (hn : (j.graphNodes ls).head? = some n0) :
    ∃ (s1 : State) (i : Job) (id : Nat), exec (.graphInstantiate job sn) s =
        .next (s1.writeStatus job n0.stream (cmdStat c) 0 n0.gang n0.ticket (cmdTag c))
      ∧ s1.mem = s.mem ∧ s1.job? job = some i ∧ i.launches = j.launches + ls.length
      ∧ i.graphs = j.graphs ++ [⟨id, cmdAddr c, cmdTag c, cmdStat c, j.graphNodes ls⟩]
      ∧ ∀ n, (i.stream n).tail = (j.stream n).tail + ls.countP (fun e => decide (e.2.desc.stream = n)) := by
  obtain ⟨s1, i, hacc, hmem, hi, hlaunches, hgraphs, htails⟩ :=
    State.acceptNodes_spec job j.ngraph ls 0 (State.job?_setJob s job (j.setStream sn (j.stream sn).pop))
  rw [Job.graphNodes_setStream_pop] at hacc
  have hexec : exec (.graphInstantiate job sn) s = .next ((s1.setJob job { i with
      graphs := i.graphs ++ [⟨i.ngraph, cmdAddr c, cmdTag c, cmdStat c, j.graphNodes ls⟩]
      ngraph := i.ngraph + 1 }).writeStatus job n0.stream (cmdStat c) 0 n0.gang n0.ticket (cmdTag c)) := by
    simp [execGraphInstantiate, hf, hj, hs, hc, hr, hk, lowest, Nat.not_lt.mpr hw, State.popPort_eq hj, hacc, hi, hn]
  refine ⟨_, _, i.ngraph, hexec, hmem, State.job?_setJob .., hlaunches, ?_, fun n => ?_⟩
  · rw [hgraphs]; rfl
  · exact (htails n).trans (by rw [Job.tail_setStream_pop])

end Front

/-! What descriptors are checked against. -/

theorem Gang.live_iff {g : Gang} : g.live = true ↔ g.phase = .waiting ∨ g.phase = .running ∨ g.phase = .retired := by
  simp [Gang.live, or_assoc]

theorem min_lt_iff_or {a b c : Nat} : min a b < c ↔ a < c ∨ b < c := by
  omega

theorem State.mem_descCodes {s : State} {j : Job} {d : Desc} {more ahead k : Nat} :
    k ∈ s.descCodes j d more ahead ↔ (s.ceilPrio j < d.prio ∧ k = 0x103)
      ∨ (((j.stream d.stream).opened = false ∨ (d.aftv = true ∧ (j.stream d.afts).opened = false)) ∧ k = 0x104)
      ∨ ((d.cls = 2 ∧ ∀ p, s.polder? j.polder = some p → j.ceil < d.ntask ∨ 36 * p.quads.length < d.ntask
        ∨ (d.shape = 1 ∧ (6 * (p.qx1 + 1 - p.qx0) < d.shw ∨ 6 * (p.qy1 + 1 - p.qy0) < d.shh))) ∧ k = 0x106)
      ∨ ((d.cls ≠ 2 ∧ d.bars ≠ 0) ∧ k = 0x107)
      ∨ ((∃ g, j.gang? ((j.launches + more) % noGang) = some g ∧ (g.phase = .waiting ∨ g.phase = .running ∨ g.phase = .retired))
        ∧ k = 0x108)
      ∨ (2 ^ 48 ≤ (j.stream d.stream).tail + ahead + 1 ∧ k = 0x109) := by
  simp only [State.descCodes, List.mem_append, mem_codeIf, or_assoc]
  refine or_congr (and_congr_left' ?prio) (or_congr (and_congr_left' ?closed) (or_congr (and_congr_left' ?large)
    (or_congr (and_congr_left' ?bars) (or_congr (and_congr_left' ?wrap) (and_congr_left' ?ticket)))))
  case prio => simp
  case closed => simp
  case large =>
    cases s.polder? j.polder with
    | none => simp
    | some p =>
      simp only [Bool.and_eq_true, Bool.or_eq_true, decide_eq_true_eq, beq_iff_eq, min_lt_iff_or, or_assoc, Option.some.injEq, forall_eq']
      rfl
  case bars => simp
  case wrap => simp [Option.any_eq_true, Gang.live_iff]
  case ticket => rw [decide_eq_true_iff]; omega

/-- Two ranges that share no byte. -/
theorem not_meets_iff {a n b m : Nat} : (!meets a n b m) = true ↔ a + n ≤ b ∨ b + m ≤ a := by
  simp [meets]; omega

/-- R32, entry by entry. -/
theorem footsApart_iff {rs : List Region} {fs : List Foot} :
    footsApart rs fs = true ↔ fs.Pairwise (fun f g => f.base + f.len ≤ g.base ∨ g.base + g.len ≤ f.base)
      ∧ ∀ f ∈ fs, (f.base + f.len ≤ Config.jcbBase ∨ Config.jcbBase + 8192 ≤ f.base)
        ∧ ∀ q ∈ rs, q.len = 0 ∨ f.base + f.len ≤ q.base ∨ q.base + q.len ≤ f.base := by
  induction fs with
  | nil => simp [footsApart]
  | cons f t ih =>
    simp only [footsApart, Bool.and_eq_true, List.all_eq_true, Bool.or_eq_true, beq_iff_eq, not_meets_iff, ih, List.pairwise_cons,
      List.forall_mem_cons]
    exact ⟨fun ⟨⟨⟨hpair, hjcb⟩, hregions⟩, hpairs, hrest⟩ => ⟨⟨hpair, hpairs⟩, ⟨hjcb, hregions⟩, hrest⟩,
      fun ⟨⟨hpair, hpairs⟩, ⟨hjcb, hregions⟩, hrest⟩ => ⟨⟨⟨hpair, hjcb⟩, hregions⟩, hpairs, hrest⟩⟩

theorem pairwise_iff_getElem? {α : Type} {R : α → α → Prop} {l : List α} :
    l.Pairwise R ↔ ∀ (i k : Nat) (a b : α), i < k → l[i]? = some a → l[k]? = some b → R a b := by
  simp only [List.pairwise_iff_getElem, List.getElem?_eq_some_iff]
  exact ⟨fun h i k a b hik ⟨hi, ha⟩ ⟨hk, hb⟩ => ha ▸ hb ▸ h i k hi hk hik,
    fun h i k hi hk hik => h i k _ _ hik ⟨hi, rfl⟩ ⟨hk, rfl⟩⟩

/-- Settles O41: the events of a GRAPH command at the front, the checks of a descriptor code by code, and R32. -/
theorem graphsAndChecks : Obligations.GraphsAndChecks := by
  unfold Obligations.GraphsAndChecks
  refine ⟨?graphs, ?checks, ?feet⟩
  case graphs =>
    intro s job sn j c hj hf hc stat hg codes ls hr
    have hs : statOk (cmdStat c) = true := statOk_iff.mpr hg
    refine ⟨fun k hk hm => exec_portGraph_reject hj hf hs hc hr (lowest_eq_some hk hm), fun hk =>
      ⟨exec_portGraph_wait hj hf hs hc hr hk, exec_graphInstantiate_wait hj hf hr, fun hne hw => ?_⟩⟩
    obtain ⟨n0, hn⟩ : ∃ n0, (j.graphNodes ls).head? = some n0 := by
      cases ls with
      | nil => exact absurd rfl hne
      | cons l t => exact ⟨_, by rw [Job.graphNodes, List.mapIdx_cons, List.head?_cons]⟩
    obtain ⟨s1, i, id, hexec, hmem, hi, hlaunches, hgraphs, htails⟩ := exec_graphInstantiate_next hj hf hs hc hr hk hw hn
    refine ⟨s1, i, _, n0, hexec, hmem, hi, hlaunches, hgraphs, rfl, rfl, rfl, hn, j.length_graphNodes ls,
      fun m n l hnode hl => ?_, htails⟩
    rw [Job.getElem?_graphNodes, hl] at hnode
    obtain rfl := Option.some.inj hnode
    have hm : (ls.take m).length = m := List.length_take_of_le (Nat.le_of_lt (List.getElem?_eq_some_iff.mp hl).1)
    refine ⟨?_, rfl, rfl, rfl, rfl, rfl⟩
    rw [Job.graphNode, hm]
  case checks =>
    intro s j d more ahead has
    simp [has, State.mem_descCodes]
  case feet =>
    intro fs rs apart
    rw [footsApart_iff, pairwise_iff_getElem?]

end Sys2Proof.Machine
end

section
/-! SUPPORT. The machine after package reset (R56, R241, R366, R386). -/
namespace Sys2Proof.Machine

theorem State.tile_reset (n : Nat) : State.reset.tile n = {} := rfl
theorem State.fn_reset (f : Nat) : State.reset.fn f = {} := rfl

/-- Every sluice is at full width (R366). -/
theorem State.sluice_reset {n : Nat} (hn : n < 6) : State.reset.sluice n = Sluice.full n := by
  have hall : ∀ k : Fin 6, State.reset.sluice k = Sluice.full k := by decide
  exact hall ⟨n, hn⟩

theorem Sluice.lanes_full (n : Nat) : (Sluice.full n).lanes = if n < 4 then 512 else 256 := by
  by_cases hn : n < 4 <;> simp [Sluice.full, hn]

/-- Settles O56: what the reset state lists is as stated, and an unlisted tile or function is as at reset. -/
theorem resetState : Obligations.ResetState := by
  unfold Obligations.ResetState
  refine ⟨fun _ => ⟨rfl, rfl⟩, Memory.wf_nil, Memory.wf_nil, rfl, fun n => ?tile, rfl, rfl, rfl, ⟨_, rfl, ?quads, rfl, rfl⟩,
    fun n hn => ?sluice, rfl, fun f => ?fn⟩
  case tile => rw [State.tile_reset]; exact ⟨rfl, rfl, fun _ => rfl, rfl, rfl⟩
  case quads => decide
  case sluice => rw [State.sluice_reset hn]; exact ⟨rfl, rfl, rfl, Sluice.lanes_full n, rfl, rfl⟩
  case fn => rw [State.fn_reset]; exact ⟨rfl, rfl, rfl, rfl⟩

end Sys2Proof.Machine
end

section
/-! SUPPORT. Commit points and tickets (R318, R319): how an instruction that does not complete ends, what sealing a task's entries
leaves of its gang, and what trd, tcommit and thead answer. -/
namespace Sys2Proof.Machine

/-! How an instruction that does not complete ends. -/

theorem perform_whole_on {s : State} {r : Run} (h : s.Ready r) {p : Pred} (hp : (s.tile s.cur).enabled p = true) (body : M Flow) :
    perform (whole p body) s = perform body s := by
  simp only [perform, whole_on h hp]

theorem perform_trap {s : State} {r : Run} (h : s.Ready r) {body : M Flow} {c : Nat} {v : Word}
    (hb : body s = .error { why := .trap c v }) : perform body s = .next (s.takeTrap s.cur r c v) := by
  rw [perform_error h hb]; simp [settle, h.run]

theorem perform_stall {s : State} {r : Run} (h : s.Ready r) {body : M Flow} {k : StallKind}
    (hb : body s = .error { why := .stall k }) : perform body s = .next (s.noteStall s.cur k) := by
  rw [perform_error h hb]; rfl

theorem perform_stall_keep {s s' : State} {r : Run} (h : s.Ready r) {body : M Flow} {k : StallKind}
    (hb : body s = .error { why := .stall k, keep := some s' }) : perform body s = .next (s'.noteStall s.cur k) := by
  rw [perform_error h hb]; rfl

theorem illegal_ready {α : Type} {s : State} {r : Run} (h : s.Ready r) :
    (illegal : M α) s = .error { why := .trap 0x01 r.pc } := by
  rw [illegal, bindM_ok (runM_ready h)]; rfl

theorem stall_eq {α : Type} (k : StallKind) (s : State) : (stall k : M α) s = .error { why := .stall k } := rfl

theorem noBorder_border {s : State} {r : Run} (h : s.Ready r) (hb : r.rcd.handler = true) :
    noBorder s = .error { why := .trap 0x01 r.pc } := by
  rw [noBorder, bindM_ok (runM_ready h)]
  simp only [Run.border, hb, if_true, illegal_ready h]

theorem noBorder_task {s : State} {r : Run} (h : s.Ready r) (hb : r.rcd.handler = false) : noBorder s = .ok ((), s) := by
  rw [noBorder, bindM_ok (runM_ready h)]
  simp only [Run.border, hb, Bool.false_eq_true, if_false, pureM_eq]

/-! The gang of a task. -/

theorem State.runGang_iff {s : State} {r : Run} {g : Gang} :
    s.runGang r = some g ↔ r.rcd.handler = false ∧ s.gang? r.job r.gid = some g := by
  cases hb : r.rcd.handler <;> simp [State.runGang, Run.border, hb]

theorem State.setGang_eq {s : State} {jid : Nat} {j : Job} (hj : s.job? jid = some j) (gid : Nat) (g : Gang) :
    s.setGang jid gid g = s.setJob jid (j.setGang gid g) := by
  simp [State.setGang, hj]

theorem State.job?_setGang {s : State} {jid : Nat} {j : Job} (hj : s.job? jid = some j) (gid : Nat) (g : Gang) :
    (s.setGang jid gid g).job? jid = some (j.setGang gid g) := by
  rw [State.setGang_eq hj, State.job?_setJob]

theorem State.runGang_setGang {s : State} {r : Run} {j : Job} {g : Gang} (hj : s.job? r.job = some j) (hg : s.runGang r = some g)
    (x : Gang) : (s.setGang r.job r.gid x).runGang r = some x := by
  rw [State.runGang_iff] at hg ⊢
  exact ⟨hg.1, by rw [State.gang?, State.job?_setGang hj]; exact Job.gang?_setGang ..⟩

theorem State.cur_setGang (s : State) (jid gid : Nat) (g : Gang) : (s.setGang jid gid g).cur = s.cur := by
  unfold State.setGang; split <;> rfl

theorem modGang_ready {s : State} {r : Run} (h : s.Ready r) {g : Gang} (hg : s.runGang r = some g) (f : Gang → Gang) :
    modGang f s = .ok ((), s.setGang r.job r.gid (f g)) := by
  rw [modGang, bindM_ok (runM_ready h), modState_eq]
  simp only [hg]

theorem acquireM_eq (sc : Scope) (s : State) : acquireM sc s = .ok ((), s.acquire s.cur sc) := rfl

/-! Batches (R301, R303, R318). -/

@[simp] theorem Gang.head_setGang (j : Job) (gid : Nat) (x g : Gang) : g.head (j.setGang gid x) = g.head j := rfl

theorem Gang.head_iff {j : Job} {g : Gang} :
    g.head j = true ↔ (j.stream g.stream).opened = true ∧ (j.stream g.stream).head = g.ticket := by
  simp [Gang.head]

@[simp] theorem Gang.head_seal (g : Gang) (held : Bool) (p : Entry → Bool) (j : Job) : (g.seal held p).head j = g.head j := by
  unfold Gang.seal; split <;> rfl

theorem Gang.batchesEnded_iff {g : Gang} : g.batchesEnded = true ↔ ∀ b ∈ g.batches, ∃ e ∈ g.entries, e.batch = some b.id := by
  simp [Gang.batchesEnded]

/-- With no entry that the condition names nothing is sealed. -/
theorem Gang.seal_of_none {g : Gang} {p : Entry → Bool} (held : Bool) (hp : ∀ e ∈ g.entries, p e = false) : g.seal held p = g := by
  have hnone : g.entries.any (fun e => e.batch.isNone && p e) = false := by
    simp only [List.any_eq_false, Bool.and_eq_true, not_and, Bool.not_eq_true]
    exact fun e he _ => hp e he
  rw [Gang.seal, hnone]; rfl

/-- Once a key's open entries are sealed, all its entries are in batches. -/
theorem Gang.exists_sealed_iff (g : Gang) (held : Bool) (k : TKey) :
    (∃ e ∈ (g.seal held (fun e => decide (e.key = k))).entries, e.key = k ∧ e.batch.isSome = true) ↔ ∃ e ∈ g.entries, e.key = k := by
  unfold Gang.seal
  split
  case isTrue =>
    simp only [List.mem_map]
    constructor
    · rintro ⟨_, ⟨e, he, rfl⟩, hk, -⟩
      refine ⟨e, he, ?_⟩
      split at hk <;> exact hk
    · rintro ⟨e, he, hk⟩
      refine ⟨_, ⟨e, he, rfl⟩, ?_⟩
      cases hb : e.batch <;> simp [hb, hk]
  case isFalse hnone =>
    simp only [List.any_eq_true, Bool.and_eq_true, decide_eq_true_eq, not_exists, not_and, Option.isNone_iff_eq_none] at hnone
    refine exists_congr fun e => and_congr_right fun he => and_iff_left_of_imp fun hk => ?_
    exact Option.isSome_iff_ne_none.mpr fun hb => hnone e he hb hk

/-- What a `tcommit` with WAIT still waits for once `g` has sealed the task's entries (R318). -/
theorem Gang.commitWaits_iff (g : Gang) (held : Bool) (k : TKey) (j : Job) :
    let sealed := g.seal held (fun e => decide (e.key = k))
    (sealed.entries.any (fun e => decide (e.key = k) && e.batch.isSome) || !sealed.batchesEnded || !sealed.head j) = true
      ↔ g.head j = false ∨ (∃ e ∈ g.entries, e.key = k) ∨ g.batchesEnded = false := by
  intro sealed
  have hmine := g.exists_sealed_iff held k
  simp only [Bool.or_eq_true, List.any_eq_true, Bool.and_eq_true, decide_eq_true_eq, Bool.not_eq_true', sealed, Gang.head_seal, hmine]
  by_cases hk : ∃ e ∈ g.entries, e.key = k
  · simp [hk]
  · have hnone : ∀ e ∈ g.entries, decide (e.key = k) = false := by simpa using hk
    rw [Gang.seal_of_none held hnone]
    exact or_comm

/-! The bodies of trd, tcommit and thead. -/

theorem exec_trd_eq (p : Pred) (d : WReg) (sn : Fin 16) (tail : Bool) (s : State) : exec (.trd p d sn tail) s = execTrd p d sn tail s := rfl
theorem exec_tcommit_eq (p : Pred) (w : Bool) (s : State) : exec (.tcommit p w) s = execTcommit p w s := rfl
theorem exec_thead_eq (p : Pred) (d : WReg) (w : Bool) (s : State) : exec (.thead p d w) s = execThead p d w s := rfl

section Tickets
variable {s : State} {r : Run} {p : Pred} (h : s.Ready r) (hp : (s.tile s.cur).enabled p = true)
include h hp

/-- What tcommit and thead do for a task outside the border context. -/
theorem perform_noBorder {g : Gang} (hg : s.runGang r = some g) (f : Run → State → M Flow) :
    perform (whole p do
      noBorder
      let r ← runM
      let s ← get
      f r s) s = perform (f r s) s := by
  rw [perform_whole_on h hp, perform, perform, bindM_ok (noBorder_task h (State.runGang_iff.mp hg).1), bindM_ok (runM_ready h),
    bindM_ok (getM_eq s)]

theorem exec_trd {j : Job} (hj : s.job? r.job = some j) (d : WReg) (sn : Fin 16) (tail : Bool) :
    exec (.trd p d sn tail) s = .next (s.finish r (s.withTile ((s.tile s.cur).setW d
      (if (j.stream sn.val).opened then word (if tail then (j.stream sn.val).tail else (j.stream sn.val).head) else 0)))) := by
  rw [exec_trd_eq, execTrd, perform_whole_on h hp]
  refine perform_next h ?_
  rw [bindM_ok (runM_ready h), bindM_ok (getM_eq s)]
  simp only [hj]
  rw [bindM_ok (wrW_eq _ _ _), pureM_eq]

theorem exec_tcommit_border (hb : r.rcd.handler = true) (w : Bool) :
    exec (.tcommit p w) s = .next (s.takeTrap s.cur r 0x01 r.pc) := by
  rw [exec_tcommit_eq, execTcommit, perform_whole_on h hp]
  exact perform_trap h (bindM_error (noBorder_border h hb))

theorem exec_thead_border (hb : r.rcd.handler = true) (d : WReg) (w : Bool) :
    exec (.thead p d w) s = .next (s.takeTrap s.cur r 0x01 r.pc) := by
  rw [exec_thead_eq, execThead, perform_whole_on h hp]
  exact perform_trap h (bindM_error (noBorder_border h hb))

variable {j : Job} {g : Gang} (hj : s.job? r.job = some j) (hg : s.runGang r = some g)
include hj hg

theorem exec_thead_next (d : WReg) (w : Bool) (hw : w = true → g.head j = true) :
    exec (.thead p d w) s = .next (s.finish r (s.withTile ((s.tile s.cur).setW d (if g.head j then 1 else 0)))) := by
  have hstay : (w && !g.head j) = false := by cases w <;> simp_all
  rw [exec_thead_eq, execThead, perform_noBorder h hp hg]
  refine perform_next h ?_
  simp only [hj, hg, hstay, Bool.false_eq_true, if_false]
  rw [bindM_ok (wrW_eq _ _ _), pureM_eq]

theorem exec_thead_stall (d : WReg) (hn : g.head j = false) :
    exec (.thead p d true) s = .next (s.noteStall s.cur .head) := by
  rw [exec_thead_eq, execThead, perform_noBorder h hp hg]
  refine perform_stall h ?_
  simp only [hj, hg, hn]
  rfl

omit hj in
theorem exec_tcommit_illegal (hl : g.journalsOn = true ∨ g.desc.digest = 2) :
    exec (.tcommit p true) s = .next (s.takeTrap s.cur r 0x01 r.pc) := by
  rw [exec_tcommit_eq, execTcommit, perform_noBorder h hp hg]
  refine perform_trap h ?_
  simp only [hg, Bool.true_and, show (g.journalsOn || decide (g.desc.digest = 2)) = true by simpa using hl, if_true, illegal_ready h]

omit hj in
/-- Requests of the task that are open hold a legal `tcommit` back. -/
theorem exec_tcommit_request {w : Bool} (hl : (w && (g.journalsOn || decide (g.desc.digest = 2))) = false) (ho : s.requestOpen r = true) :
    exec (.tcommit p w) s = .next (s.noteStall s.cur .barge) := by
  rw [exec_tcommit_eq, execTcommit, perform_noBorder h hp hg]
  refine perform_stall h ?_
  simp only [hg, hl, ho, Bool.false_eq_true, if_false, if_true, stall_eq]

omit hp hj in
theorem sealMine_ready : sealMine s =
    .ok ((), s.setGang r.job r.gid (g.seal g.journalsOn (fun e => decide (e.key = r.rcd.key)))) := by
  rw [sealMine, bindM_ok (runM_ready h), modGang_ready h hg]

omit hj in
theorem exec_tcommit_next (ho : s.requestOpen r = false) :
    exec (.tcommit p false) s =
      .next (s.finish r (s.setGang r.job r.gid (g.seal g.journalsOn (fun e => decide (e.key = r.rcd.key))))) := by
  rw [exec_tcommit_eq, execTcommit, perform_noBorder h hp hg]
  refine perform_next h ?_
  simp only [hg, ho, Bool.false_and, Bool.false_eq_true, if_false]
  rw [bindM_ok (sealMine_ready h hg)]
  rfl

/-- A legal `tcommit` with WAIT whose requests are done seals, then stalls or acquires. -/
theorem exec_tcommit_wait (hl : (g.journalsOn || decide (g.desc.digest = 2)) = false) (ho : s.requestOpen r = false) :
    let sealed := s.setGang r.job r.gid (g.seal g.journalsOn (fun e => decide (e.key = r.rcd.key)))
    let waits := g.head j = false ∨ (∃ e ∈ g.entries, e.key = r.rcd.key) ∨ g.batchesEnded = false
    (waits → exec (.tcommit p true) s = .next (sealed.noteStall s.cur .commit))
    ∧ (¬ waits → exec (.tcommit p true) s = .next (s.finish r (sealed.acquire s.cur .package))) := by
  intro sealed waits
  have hwaits := Gang.commitWaits_iff g g.journalsOn r.rcd.key j
  have hjob : sealed.job? r.job = some (j.setGang r.gid _) := State.job?_setGang hj r.gid _
  have hgang : sealed.runGang r = some _ := State.runGang_setGang hj hg _
  have hcur : sealed.cur = s.cur := State.cur_setGang s r.job r.gid _
  refine ⟨fun hw => ?stalls, fun hw => ?goes⟩ <;> rw [exec_tcommit_eq, execTcommit, perform_noBorder h hp hg]
  case stalls =>
    refine perform_stall_keep h ?_
    simp only [hg, hl, ho, Bool.and_false, Bool.false_eq_true, if_false]
    rw [bindM_ok (sealMine_ready h hg)]
    simp only [Bool.not_true, Bool.false_eq_true, if_false]
    rw [bindM_ok (getM_eq sealed)]
    simp only [hgang, hjob, Option.any_some, Gang.head_setGang, hwaits.mpr hw, if_true]
    rfl
  case goes =>
    refine perform_next h ?_
    simp only [hg, hl, ho, Bool.and_false, Bool.false_eq_true, if_false]
    rw [bindM_ok (sealMine_ready h hg)]
    simp only [Bool.not_true, Bool.false_eq_true, if_false]
    rw [bindM_ok (getM_eq sealed)]
    simp only [hgang, hjob, Option.any_some, Gang.head_setGang, mt hwaits.mp hw, Bool.false_eq_true, if_false]
    rw [bindM_ok (acquireM_eq .package sealed), hcur]
    rfl

end Tickets

/-- Settles O25: the border context, the tickets, and a commit with and without WAIT. -/
theorem commitAndTickets : Obligations.CommitAndTickets := by
  unfold Obligations.CommitAndTickets
  intro s r h p hp d sn j hj t st put
  refine ⟨exec_trd h hp hj d sn false, exec_trd h hp hj d sn true,
    fun hb w => ⟨exec_tcommit_border h hp hb w, exec_thead_border h hp hb d w⟩, ?_⟩
  intro g hg isHead sealed ended
  have hhead : g.head j = true ↔ isHead := Gang.head_iff
  have hended : g.batchesEnded = true ↔ ended := Gang.batchesEnded_iff
  have hput (w : Bool) (hw : w = true → g.head j = true) : exec (.thead p d w) s = .next (put (if g.head j then 1 else 0)) :=
    exec_thead_next h hp hj hg d w hw
  simp only [hhead] at hput
  refine ⟨hput false (by simp), fun hi => by simpa [hi] using hput true (fun _ => hi),
    fun hi => exec_thead_stall h hp hj hg d (by rwa [← hhead, Bool.not_eq_true] at hi),
    exec_tcommit_request h hp hg (by simp), exec_tcommit_next h hp hg, exec_tcommit_illegal h hp hg, fun hn hd => ?_⟩
  have hl : (g.journalsOn || decide (g.desc.digest = 2)) = false := by simp [hn, hd]
  have hwait (ho : s.requestOpen r = false) := exec_tcommit_wait h hp hj hg hl ho
  simp only [← Bool.not_eq_true, hhead, hended] at hwait
  refine ⟨exec_tcommit_request h hp hg (by simpa using hl), fun ho hi hk he => (hwait (by simp [ho])).2 ?_,
    fun ho hw => (hwait (by simp [ho])).1 hw⟩
  rintro (hi' | ⟨e, hmem, hkey⟩ | he')
  · exact hi' hi
  · exact hk e hmem hkey
  · exact he' he

end Sys2Proof.Machine
end

section
/-! SUPPORT. A death of a tile that leaves the dead tile a task (R14, R160, R330 to R333, R339, R407). Tile 0 of job 1 is the tile of
the one root of gang 0, CONCURRENT and journaled; the root sleeps, its record at its address, and holds the tile. On the tile's deque
stands a record of gang 1 that came back from the spill share with other bytes, 64 zeros: they fail CHK and name gang 0. When the tile dies
its deque goes to the ready queue; the bad record is an error of gang 0, which is restorable, and the rollback restarts the root on
the dead tile. The root resumes with the record at its address, where meanwhile a store has set HANDLER and mended CHK; so it is no task
of gang 0 by its record, and the failure of gang 0 that follows leaves it there. -/
namespace Sys2Proof.Machine
namespace DeadTile

/-- The root's record as the root left it. -/
def rootRecord : Record :=
  { cp := 0x10000, fp := 0x400000, lin := 0, gang := 0, flags := mkFlags 1 0 1 false false, seq := 1 }

/-- The same with HANDLER set, as a store has left it at the root's record address. -/
def forgedRecord : Record := { rootRecord with flags := mkFlags 1 0 1 false true }

/-- The record of gang 1 in the deque. -/
def otherRecord : Record := { rootRecord with gang := 1, fp := 0x402000 }

/-- The journaled gang whose one root stands on tile 0. -/
def rootGang : Gang where
  desc := { plainDesc with cls := 2, snapb := 8 }
  foot := [⟨0x400000, 0x1800, .priv⟩]
  code := [⟨0x10000, 64⟩]
  consts := []
  stream := 0
  ticket := 1
  ctag := 0
  stat := 0
  phase := .running
  dispatched := true
  tasks := [{ key := rootRecord.key, addr := rootRecord.addr, root := some 0 }]
  placed := [0]
  journals := [{ root := 0, sp := [], mat := {}, units := [], mregs := [], pc := 0x10000 }]

/-- The gang of the record in the deque, on a stream of its own. -/
def otherGang : Gang where
  desc := { plainDesc with stream := 1 }
  foot := [⟨0x402000, 0x1800, .priv⟩]
  code := [⟨0x10000, 64⟩]
  consts := []
  stream := 1
  ticket := 1
  ctag := 0
  stat := 0
  phase := .running
  dispatched := true
  tasks := [{ key := otherRecord.key, addr := otherRecord.addr, root := some 0 }]

def job : Job where
  polder := 0
  jcbpa := 0x100000
  s1root := 0x200000
  s2root := 0x220000
  readyQN := 64
  launches := 2
  gangs := [(0, rootGang), (1, otherGang)]
  streams := [(0, { opened := true, tail := 1, head := 1 }), (1, { opened := true, tail := 1, head := 1 })]
  susp := [⟨rootRecord.addr, .until 1000, 1⟩]
  images := [(otherRecord.addr, .hard (List.replicate 64 0))]
  unseeded := false

def tile : Tile where
  owner := .job 1
  root := some { rcd := rootRecord, job := 1, base := 0 }
  deque := [otherRecord]

/-- Tables of both stages that map the first 4 TB of the job's space to the same physical addresses (R253 to R255). -/
def identityTables : Memory :=
  ([(0x200000, 0x210003), (0x210000, 0xD), (0x220000, 0x230003), (0x230000, 0xD)] : List (Nat × Nat)).foldl
    (fun m e => m.writeLE e.1 8 e.2) []

/-- The machine before tile 0 dies. -/
def before : State := { State.reset with
  mem := identityTables.writeBytes rootRecord.addr forgedRecord.bytes
  jobs := [(1, job)]
  tiles := [(0, tile)] }

/-- The bytes in the deque fail CHK, and name gang 0. -/
theorem zeros_bad : chkOk (List.replicate 64 0) = false ∧ (Record.ofBytes (List.replicate 64 0)).gang = 0 := by decide +kernel

/-- An error of gang 0 rolls it back at once. -/
theorem rootGang_restorable : before.restorable rootGang = true ∧ before.standing rootGang = true := by decide +kernel

/-- The rollback takes the root's record from its address. -/
theorem heldRecord_forged : before.heldRecord 1 0 job { key := rootRecord.key, addr := rootRecord.addr, root := some 0 } = forgedRecord := by
  decide +kernel

/-- The dead tile runs the root. -/
theorem run_markDead : ((before.markDead 0).tile 0).run = some { rcd := forgedRecord, job := 1, pc := 0x10000 } := by decide +kernel

end DeadTile

/-- Refutes O46: `DeadTile.before` is a state in which a tile that dies runs a task afterwards. -/
theorem not_territory : ¬ Obligations.Territory := by
  unfold Obligations.Territory
  rintro ⟨-, -, -, -, -, hdead, -⟩
  obtain ⟨s', hexec, -, hrun, -⟩ := hdead DeadTile.before 0 rfl (by decide)
  have hs' : s' = DeadTile.before.markDead 0 := (Host.Outcome.next.inj hexec).symm
  rw [hs', DeadTile.run_markDead] at hrun
  exact Option.some_ne_none _ hrun

end Sys2Proof.Machine
end
